-- ==== Sys2Proof/Word.lean ====
section
/-! DEFINITION. Bytes and byte sequences (spec/00_scope.md R8, R9; spec/20_memory.md R36: every field is one byte).
Notation of R9 in Lean: `xs ++ ys` is `++`, `len(xs)` is `xs.length`, `xs[i]` is `xs[i]?` (an index at or past the
length gives `none`), `xs[i..j)` is `(xs.drop i).take (j - i)`. -/

namespace Sys2Proof

/-- A byte: an unsigned 8-bit value, bits 7 down to 0 (R8). -/
abbrev Byte := BitVec 8

/-- One field of an RPC_RESULT: a byte string, delivered as it came (R54, R81). -/
abbrev Field := List Byte

/-- The ordered field list of one RPC_RESULT (R12, R25). -/
abbrev Record := List Field

end Sys2Proof
end

