-- ==== Sys2Proof/Config.lean ====
section
/-! DEFINITION. What is fixed for the life of one block instance (spec/10_state.md R32, spec/00_scope.md R7), and the two
values the spec leaves OPEN (spec/92_eei_decisions.md D15, D18; log entry 2). -/

namespace Sys2Proof

/-- The two parameters of R7. They are arguments of the step relation (R32): `State.cfg` carries them, no event changes
them. -/
structure Config where
  /-- `P_MAX_RECORDS`: the capacity of the multi-response record list; `none` is "unbounded" (D18). -/
  maxRecords : Option Nat
  /-- `P_REJECT_ON_DISCONNECT`: whether termination fails a pending call (D15). -/
  rejectOnDisconnect : Bool
  deriving DecidableEq, Repr

/-- OPEN in the spec (D18): the capacity an instance is created with. No body: nothing can be proved of its value. -/
opaque Config.openMaxRecords : Option Nat

/-- OPEN in the spec (D15): the disconnect behaviour an instance is created with. No body. -/
opaque Config.openRejectOnDisconnect : Bool

/-- The parameters of the instance that `State.reset` creates: both open. DESIGN CHOICE (safe, log entry 2). -/
def Config.created : Config :=
  { maxRecords := Config.openMaxRecords, rejectOnDisconnect := Config.openRejectOnDisconnect }

end Sys2Proof
end

