-- ==== Sys2Proof/Syntax.lean ====
section
/-! DEFINITION. The sixteen rows of spec/opcode_table.json as one inductive, the units they are encoded in, the shape of a
table row, and the program statements of spec/30_encoding.md R62 and R63. -/

namespace Sys2Proof

/-- One constructor per row of spec/opcode_table.json.

* Rows of format `event` (R58): the block's input events with their operands (R59).
* Rows of format `frame-rx` (R48): a completed received frame of version 0x01 and that type, with any payload and any
  checksum byte; the length byte is the payload's length (log entry 8).
* Rows of format `frame-tx` (R52, R84): a transmitted RPC request of that command; its length bytes and checksum are
  computed from the data (log entry 9). -/
inductive Instr where
  /-- event 0x0 `RX_BYTE` (R66) -/
  | rxByte (b : Byte)
  /-- event 0x1 `RX_END` (R105) -/
  | rxEnd
  /-- event 0x2 `START` (R103) -/
  | start
  /-- event 0x3 `CLOSE` (R104) -/
  | close
  /-- event 0x4 `ISSUE_ONE` (R92) -/
  | issueOne (cmd : Byte) (data : List Byte)
  /-- event 0x5 `ISSUE_MANY` (R93) -/
  | issueMany (cmd : Byte) (data : List Byte)
  /-- event 0x6 `TIMEOUT` (R95) -/
  | timeout
  /-- event 0x7 `ABANDON` (R96) -/
  | abandon
  /-- received frame of type 0x01 `CURRENT_STATE` (R76) -/
  | currentState (payload : List Byte) (checksum : Byte)
  /-- received frame of type 0x02 `ERROR_STATE` (R77) -/
  | errorState (payload : List Byte) (checksum : Byte)
  /-- received frame of type 0x03 `RPC` (R78) -/
  | rpc (payload : List Byte) (checksum : Byte)
  /-- received frame of type 0x04 `RPC_RESULT` (R80) -/
  | rpcResult (payload : List Byte) (checksum : Byte)
  /-- transmitted request, command 0x01 `SEND_WIFI_SETTINGS` (R84) -/
  | txSendWifiSettings (data : List Byte)
  /-- transmitted request, command 0x02 `REQUEST_CURRENT_STATE` (R84) -/
  | txRequestCurrentState (data : List Byte)
  /-- transmitted request, command 0x03 `REQUEST_INFO` (R84) -/
  | txRequestInfo (data : List Byte)
  /-- transmitted request, command 0x04 `REQUEST_WIFI_NETWORKS` (R84) -/
  | txRequestWifiNetworks (data : List Byte)
  deriving DecidableEq, Repr

/-- An input event as it stands at a port: its 4-bit code (R58) and its operand bytes (R59). The operand layout (the byte
`b`; the command byte and then the data bytes; nothing) is the model's DESIGN CHOICE (log entry 5). -/
structure InputWord where
  code : BitVec 4
  operand : List Byte
  deriving DecidableEq, Repr

/-- The three formats of spec/opcode_table.json (R64). -/
inductive Format where
  | event
  | frameRx
  | frameTx
  deriving DecidableEq, Repr

/-- What an instruction is encoded as: an input event, or a whole frame seen on the receive or on the transmit side. -/
inductive Encoded where
  | event (w : InputWord)
  | rxFrame (bytes : List Byte)
  | txFrame (bytes : List Byte)
  deriving DecidableEq, Repr

/-- Why the decoder refuses a unit, by name. -/
inductive Reject where
  /-- an event code 0x8 to 0xF (R60) -/
  | reservedCode
  /-- an event whose operand bytes are not those of R59 -/
  | operandCount
  /-- the first six bytes are not the magic (R45) -/
  | noMagic
  /-- the byte count is not 10 + N (R46) -/
  | frameLength
  /-- a frame that matches no row of the table (R64) -/
  | noRow
  /-- a transmitted frame whose checksum is not the sum of the bytes before it (R55) -/
  | badChecksum
  /-- a transmitted frame whose payload is not `[cmd, len(data)] ++ data` (R52) -/
  | badDataLength
  deriving DecidableEq, Repr

/-- The fields of a frame after its magic (R45). -/
structure RawFrame where
  version : Byte
  type : Byte
  payload : List Byte
  checksum : Byte
  deriving DecidableEq, Repr

/-- One row of spec/opcode_table.json: `match` and `mask` byte by byte, byte 0 first (R64). An event row is one byte. -/
structure Row where
  mnemonic : String
  format : Format
  pattern : List Byte
  mask : List Byte
  deriving DecidableEq, Repr

/-- Statements of the program notation: R62, and the pseudo-statements of R63. -/
inductive Stmt where
  | rx (bytes : List Byte)
  | rxend
  | start
  | close
  | issueOne (cmd : Byte) (data : List Byte)
  | issueMany (cmd : Byte) (data : List Byte)
  | timeout
  | abandon
  | rxframe (type : Byte) (payload : List Byte)
  | rxstate (v : Byte)
  | rxerror (v : Byte)
  | rxresult (cmd : Byte) (fields : Record)
  | rxline (text : List Byte)
  deriving DecidableEq, Repr

end Sys2Proof
end

