-- ==== Sys2Proof/WellFormed.lean ====
section
/-! DEFINITION. Which instructions the encodings of spec/30_encoding.md can spell. -/

namespace Sys2Proof

/-- A received frame's payload fits its length byte: `N` is 0 to 255 (R46). -/
def payloadFits (payload : List Byte) : Bool := payload.length ≤ 255

/-- A transmitted request's data fits: `N = 2 + len(data) ≤ 255` (R84, `MAX_DATA` of R7). -/
def dataFits (data : List Byte) : Bool := data.length ≤ 253

/-- Well-formedness: the length bounds of the frame format. An issue's data may have any length (R59: a length above 253
is refused by the step, not by the encoding). -/
def wellFormed : Instr → Bool
  | .rxByte _ => true
  | .rxEnd => true
  | .start => true
  | .close => true
  | .issueOne _ _ => true
  | .issueMany _ _ => true
  | .timeout => true
  | .abandon => true
  | .currentState payload _ => payloadFits payload
  | .errorState payload _ => payloadFits payload
  | .rpc payload _ => payloadFits payload
  | .rpcResult payload _ => payloadFits payload
  | .txSendWifiSettings data => dataFits data
  | .txRequestCurrentState data => dataFits data
  | .txRequestInfo data => dataFits data
  | .txRequestWifiNetworks data => dataFits data

end Sys2Proof
end

