-- ==== Sys2Proof/Decode.lean ====
section
/-! DEFINITION. The frame format and the event codes (spec/30_encoding.md), the decoder of the three formats, total and
rejecting by name, the encoder written from the same tables, the opcode table as rows, and the program notation. -/

namespace Sys2Proof

/-! ### Constants of the format -/

/-- The magic "IMPROV" (R45). PRESUMED: the characters are the spec's, their byte values are ASCII (I1; log entry 1). -/
def magic : List Byte := [0x49, 0x4D, 0x50, 0x52, 0x4F, 0x56]

/-- The single supported protocol version (R2, R47). -/
def version : Byte := 0x01

/-- Message types (R48). -/
def typeCurrentState : Byte := 0x01
def typeErrorState : Byte := 0x02
def typeRpc : Byte := 0x03
def typeRpcResult : Byte := 0x04

/-- Command codes (R52). -/
def cmdSendWifiSettings : Byte := 0x01
def cmdRequestCurrentState : Byte := 0x02
def cmdRequestInfo : Byte := 0x03
def cmdRequestWifiNetworks : Byte := 0x04

/-- Named device states (R50); any other byte is accepted and stored raw. -/
def stateReady : Byte := 0x02
def stateProvisioning : Byte := 0x03
def stateProvisioned : Byte := 0x04

/-- Named error codes (R51); any other byte is accepted and stored raw. -/
def errNone : Byte := 0x00
def errInvalidRpcPacket : Byte := 0x01
def errUnknownRpcCommand : Byte := 0x02
def errUnableToConnect : Byte := 0x03
def errTimeout : Byte := 0xFE
def errUnknown : Byte := 0xFF

/-- The newline byte that ends a line (R66). -/
def newline : Byte := 0x0A

/-- `HDR_LEN`, `MAX_DATA` and `FB_CAP` (R7). -/
def hdrLen : Nat := 9
def maxData : Nat := 253
def fbCap : Nat := 265

/-! ### Building frames -/

/-- `sum8(xs)`: the sum of the bytes as a natural number, modulo 256 (R9, R74). -/
def sum8 (xs : List Byte) : Byte := BitVec.ofNat 8 (xs.map BitVec.toNat).sum

/-- Bytes 0 to 8+N of a frame of type `t` with payload `p`: magic, version, type, length, payload (R45). -/
def frameBody (t : Byte) (p : List Byte) : List Byte :=
  magic ++ [version, t, BitVec.ofNat 8 p.length] ++ p

/-- A whole frame with a given checksum byte at offset 9+N. -/
def frameWith (t : Byte) (p : List Byte) (checksum : Byte) : List Byte := frameBody t p ++ [checksum]

/-- `Encode(t, P)` (R83); its precondition is `len(P) ≤ 255`. -/
def encodeFrame (t : Byte) (p : List Byte) : List Byte := frameWith t p (sum8 (frameBody t p))

/-- The RPC payload `[cmd, len(data)] ++ data` (R52). -/
def rpcPayload (cmd : Byte) (data : List Byte) : List Byte := [cmd, BitVec.ofNat 8 data.length] ++ data

/-- `EncodeRpc(cmd, data)` (R84); its precondition is `len(data) ≤ 253`. -/
def encodeRpc (cmd : Byte) (data : List Byte) : List Byte := encodeFrame typeRpc (rpcPayload cmd data)

/-- One field: its length byte and its bytes (R54). -/
def encodeField (f : Field) : List Byte := BitVec.ofNat 8 f.length :: f

/-- Fields one after another (R53). -/
def encodeFields : Record → List Byte
  | [] => []
  | f :: fs => encodeField f ++ encodeFields fs

/-- The RPC_RESULT payload `[cmd, T] ++ fields` (R53, R63). -/
def resultPayload (cmd : Byte) (fs : Record) : List Byte :=
  [cmd, BitVec.ofNat 8 (encodeFields fs).length] ++ encodeFields fs

/-! ### The encoder -/

/-- The words of an instruction, from the event codes of R58 and the frame format of R45. -/
def encode : Instr → Encoded
  | .rxByte b => .event ⟨0x0, [b]⟩
  | .rxEnd => .event ⟨0x1, []⟩
  | .start => .event ⟨0x2, []⟩
  | .close => .event ⟨0x3, []⟩
  | .issueOne cmd data => .event ⟨0x4, cmd :: data⟩
  | .issueMany cmd data => .event ⟨0x5, cmd :: data⟩
  | .timeout => .event ⟨0x6, []⟩
  | .abandon => .event ⟨0x7, []⟩
  | .currentState p c => .rxFrame (frameWith typeCurrentState p c)
  | .errorState p c => .rxFrame (frameWith typeErrorState p c)
  | .rpc p c => .rxFrame (frameWith typeRpc p c)
  | .rpcResult p c => .rxFrame (frameWith typeRpcResult p c)
  | .txSendWifiSettings data => .txFrame (encodeRpc cmdSendWifiSettings data)
  | .txRequestCurrentState data => .txFrame (encodeRpc cmdRequestCurrentState data)
  | .txRequestInfo data => .txFrame (encodeRpc cmdRequestInfo data)
  | .txRequestWifiNetworks data => .txFrame (encodeRpc cmdRequestWifiNetworks data)

/-! ### The decoder -/

/-- An input event (R58, R59, R60). -/
def decodeEvent (w : InputWord) : Except Reject Instr :=
  match w.code.toNat, w.operand with
  | 0x0, [b] => .ok (.rxByte b)
  | 0x1, [] => .ok .rxEnd
  | 0x2, [] => .ok .start
  | 0x3, [] => .ok .close
  | 0x4, cmd :: data => .ok (.issueOne cmd data)
  | 0x5, cmd :: data => .ok (.issueMany cmd data)
  | 0x6, [] => .ok .timeout
  | 0x7, [] => .ok .abandon
  | n, _ => if n < 8 then .error .operandCount else .error .reservedCode

/-- The fields of a frame at their offsets (R45, R57): version at 6, type at 7, N at 8, payload [9, 9+N), checksum at
9+N; `none` unless there are exactly 10 + N bytes (R46). The magic is not looked at here. -/
def frameOperands (f : List Byte) : Option RawFrame :=
  match f.drop 6 with
  | v :: t :: n :: rest =>
    match rest.drop n.toNat with
    | [c] => some ⟨v, t, rest.take n.toNat, c⟩
    | _ => none
  | _ => none

/-- The `frame-rx` row of a message type (R48). -/
def rxRow (t : Byte) (p : List Byte) (c : Byte) : Except Reject Instr :=
  if t = typeCurrentState then .ok (.currentState p c)
  else if t = typeErrorState then .ok (.errorState p c)
  else if t = typeRpc then .ok (.rpc p c)
  else if t = typeRpcResult then .ok (.rpcResult p c)
  else .error .noRow

/-- A completed received frame against the `frame-rx` rows: magic, version and type (R64). -/
def decodeRxFrame (f : List Byte) : Except Reject Instr :=
  if f.take 6 = magic then
    match frameOperands f with
    | some r => if r.version = version then rxRow r.type r.payload r.checksum else .error .noRow
    | none => .error .frameLength
  else .error .noMagic

/-- The `frame-tx` row of a command (R52, R64). -/
def txRow (cmd : Byte) (data : List Byte) : Except Reject Instr :=
  if cmd = cmdSendWifiSettings then .ok (.txSendWifiSettings data)
  else if cmd = cmdRequestCurrentState then .ok (.txRequestCurrentState data)
  else if cmd = cmdRequestInfo then .ok (.txRequestInfo data)
  else if cmd = cmdRequestWifiNetworks then .ok (.txRequestWifiNetworks data)
  else .error .noRow

/-- A transmitted frame against the `frame-tx` rows: version, type RPC, the command, and the fields computed from the
data (R52, R55, R84). -/
def decodeTxFrame (f : List Byte) : Except Reject Instr :=
  if f.take 6 = magic then
    match frameOperands f with
    | some r =>
      if r.version = version ∧ r.type = typeRpc then
        match r.payload with
        | cmd :: len :: data =>
          if len.toNat ≠ data.length then .error .badDataLength
          else if r.checksum ≠ sum8 (frameBody typeRpc r.payload) then .error .badChecksum
          else txRow cmd data
        | _ => .error .badDataLength
      else .error .noRow
    | none => .error .frameLength
  else .error .noMagic

/-- The decoder: total on any event code, operand bytes and frame bytes. -/
def decode : Encoded → Except Reject Instr
  | .event w => decodeEvent w
  | .rxFrame f => decodeRxFrame f
  | .txFrame f => decodeTxFrame f

/-! ### The opcode table -/

/-- spec/opcode_table.json row by row. -/
def rowOf : Instr → Row
  | .rxByte _ => ⟨"RX_BYTE", .event, [0x00], [0x0F]⟩
  | .rxEnd => ⟨"RX_END", .event, [0x01], [0x0F]⟩
  | .start => ⟨"START", .event, [0x02], [0x0F]⟩
  | .close => ⟨"CLOSE", .event, [0x03], [0x0F]⟩
  | .issueOne _ _ => ⟨"ISSUE_ONE", .event, [0x04], [0x0F]⟩
  | .issueMany _ _ => ⟨"ISSUE_MANY", .event, [0x05], [0x0F]⟩
  | .timeout => ⟨"TIMEOUT", .event, [0x06], [0x0F]⟩
  | .abandon => ⟨"ABANDON", .event, [0x07], [0x0F]⟩
  | .currentState _ _ =>
    ⟨"CURRENT_STATE", .frameRx, [0x49, 0x4D, 0x50, 0x52, 0x4F, 0x56, 0x01, 0x01], List.replicate 8 0xFF⟩
  | .errorState _ _ =>
    ⟨"ERROR_STATE", .frameRx, [0x49, 0x4D, 0x50, 0x52, 0x4F, 0x56, 0x01, 0x02], List.replicate 8 0xFF⟩
  | .rpc _ _ =>
    ⟨"RPC", .frameRx, [0x49, 0x4D, 0x50, 0x52, 0x4F, 0x56, 0x01, 0x03], List.replicate 8 0xFF⟩
  | .rpcResult _ _ =>
    ⟨"RPC_RESULT", .frameRx, [0x49, 0x4D, 0x50, 0x52, 0x4F, 0x56, 0x01, 0x04], List.replicate 8 0xFF⟩
  | .txSendWifiSettings _ =>
    ⟨"TX_SEND_WIFI_SETTINGS", .frameTx, [0x49, 0x4D, 0x50, 0x52, 0x4F, 0x56, 0x01, 0x03, 0x00, 0x01],
      List.replicate 8 0xFF ++ [0x00, 0xFF]⟩
  | .txRequestCurrentState _ =>
    ⟨"TX_REQUEST_CURRENT_STATE", .frameTx, [0x49, 0x4D, 0x50, 0x52, 0x4F, 0x56, 0x01, 0x03, 0x00, 0x02],
      List.replicate 8 0xFF ++ [0x00, 0xFF]⟩
  | .txRequestInfo _ =>
    ⟨"TX_REQUEST_INFO", .frameTx, [0x49, 0x4D, 0x50, 0x52, 0x4F, 0x56, 0x01, 0x03, 0x00, 0x03],
      List.replicate 8 0xFF ++ [0x00, 0xFF]⟩
  | .txRequestWifiNetworks _ =>
    ⟨"TX_REQUEST_WIFI_NETWORKS", .frameTx, [0x49, 0x4D, 0x50, 0x52, 0x4F, 0x56, 0x01, 0x03, 0x00, 0x04],
      List.replicate 8 0xFF ++ [0x00, 0xFF]⟩

/-- The format and the bytes a row is matched against: an event's code, or a frame from its first byte (R64). -/
def rowBytes : Encoded → Format × List Byte
  | .event w => (.event, [w.code.setWidth 8])
  | .rxFrame f => (.frameRx, f)
  | .txFrame f => (.frameTx, f)

/-- Each of the row's bytes, under its mask, equals the pattern; bytes beyond the row are free. -/
def matchesUnder : List Byte → List Byte → List Byte → Bool
  | [], _, _ => true
  | p :: ps, m :: ms, b :: bs => (b &&& m == p) && matchesUnder ps ms bs
  | _ :: _, _, _ => false

/-- A unit matches a row of the table (R64). -/
def matchesRow (r : Row) (e : Encoded) : Bool :=
  (rowBytes e).1 == r.format && matchesUnder r.pattern r.mask (rowBytes e).2

/-! ### A table word -/

/-- The low `n` bytes of a number, least significant byte first. -/
def bytesOfNat : Nat → Nat → List Byte
  | 0, _ => []
  | n + 1, w => BitVec.ofNat 8 w :: bytesOfNat n (w / 256)

/-- A frame row's number, byte 0 first: R64 writes the number with byte 0 as its MOST significant byte; a number whose
least significant byte starts the magic is read the other way (log entry 11). -/
def tableFrameBytes (n w : Nat) : List Byte :=
  if (bytesOfNat n w).take 6 = magic then bytesOfNat n w else (bytesOfNat n w).reverse

/-- The operand bytes of an event whose operand bits are all zero: the fewest R59 gives it. -/
def zeroOperand (code : Nat) : List Byte :=
  if code = 0x0 ∨ code = 0x4 ∨ code = 0x5 then [0x00] else []

/-- A table word laid out as the hardware stores it (log entry 11). 8 bits to 32 bits: an event, its code in the first
byte and its operand bytes after it. 64 bits: a received frame's first eight bytes, then N = 0 and a zero checksum byte. 80
bits: a transmitted frame's first ten bytes with no data, its masked-out length byte and its checksum as R84 computes
them. -/
def tableUnit (nbits w : Nat) : Encoded :=
  if nbits = 64 then .rxFrame (tableFrameBytes 8 w ++ [0x00, 0x00])
  else if nbits = 80 then
    let f := tableFrameBytes 10 w
    let body := f.take 8 ++ [0x02] ++ f.drop 9 ++ [0x00]
    .txFrame (body ++ [sum8 body])
  else
    let operand := bytesOfNat (nbits / 8 - 1) (w / 256)
    .event ⟨BitVec.ofNat 4 w, if operand = [] then zeroOperand (w % 16) else operand⟩

/-- The instruction the decoder reads from a table word. An event code has four bits, so a first byte above 0x0F is none. -/
def decodeTableWord (nbits w : Nat) : Option Instr :=
  if nbits ≠ 64 ∧ nbits ≠ 80 ∧ 16 ≤ w % 256 then none else (decode (tableUnit nbits w)).toOption

/-! ### The program notation -/

/-- The input events of a run of received bytes. -/
def rxEvents (bytes : List Byte) : List InputWord := bytes.map fun b => ⟨0x0, [b]⟩

/-- The input events a statement spells (R62, R63). -/
def stmtEvents : Stmt → List InputWord
  | .rx bytes => rxEvents bytes
  | .rxend => [⟨0x1, []⟩]
  | .start => [⟨0x2, []⟩]
  | .close => [⟨0x3, []⟩]
  | .issueOne cmd data => [⟨0x4, cmd :: data⟩]
  | .issueMany cmd data => [⟨0x5, cmd :: data⟩]
  | .timeout => [⟨0x6, []⟩]
  | .abandon => [⟨0x7, []⟩]
  | .rxframe t p => rxEvents (encodeFrame t p)
  | .rxstate v => rxEvents (encodeFrame typeCurrentState [v])
  | .rxerror v => rxEvents (encodeFrame typeErrorState [v])
  | .rxresult cmd fs => rxEvents (encodeFrame typeRpcResult (resultPayload cmd fs))
  | .rxline text => rxEvents (text ++ [newline])

/-- A program is executed top to bottom as one sequence of input events (R62). -/
def programEvents (p : List Stmt) : List InputWord := (p.map stmtEvents).flatten

end Sys2Proof
end

