-- ==== Sys2Proof/Machine/State.lean ====
section
/-! DEFINITION. The state of the block (spec/10_state.md R15 to R25), its output events (spec/30_encoding.md R61), drop
reasons, failure kinds and statuses (spec/60_exceptions.md R111, R113, R114), the packets decoding yields
(spec/41_codec.md R75 to R80), the stops, and the state after reset (spec/70_reset_and_hazards.md R124). -/

namespace Sys2Proof.Machine

/-- `SYNC` (R16). -/
inductive Sync where
  | unknown
  | proto
  | nonproto
  deriving DecidableEq, Repr

/-- `LINK` (R21). -/
inductive Link where
  | connecting
  | connected
  | error
  deriving DecidableEq, Repr

/-- `READER` (R22). -/
inductive Reader where
  | idle
  | running
  | stopped
  deriving DecidableEq, Repr

/-- `PEND_KIND` (R23). -/
inductive PendKind where
  | none
  | one
  | many
  deriving DecidableEq, Repr

/-- The shape of a call being issued: ONE or MANY (R94). -/
inductive Shape where
  | one
  | many
  deriving DecidableEq, Repr

/-- Drop reasons (R111); codes in Machine/Flags.lean. -/
inductive DropReason where
  | shortLine
  | nonProtocol
  | checksumMismatch
  | unsupportedVersion
  | unknownType
  | unexpectedType
  | badLength
  | malformedRpc
  | malformedResult
  | resultNoPending
  | resultCmdMismatch
  | partialAtEnd
  deriving DecidableEq, Repr

/-- Call failure kinds (R113). -/
inductive FailKind where
  | code
  | disconnected
  | overflow
  deriving DecidableEq, Repr

/-- Issue statuses (R114). -/
inductive Status where
  | accepted
  | callInProgress
  | dataTooLong
  | closed
  deriving DecidableEq, Repr

/-- Output events (R61). -/
inductive OutEvent where
  | tx (bytes : List Byte)
  | drop (reason : DropReason)
  | stateEvt (v : Byte)
  | errorEvt (v : Byte)
  | doneOne (cmd : Byte) (fields : Record)
  | doneMany (cmd : Byte) (records : List Record)
  | doneFail (cmd : Byte) (kind : FailKind) (code : Byte)
  | disconnected
  deriving DecidableEq, Repr

/-- A frame that passed decoding (R12, R76 to R80). -/
inductive Packet where
  | currentState (v : Byte)
  | errorState (e : Byte)
  | rpc (cmd : Byte) (data : List Byte)
  | rpcResult (cmd : Byte) (fields : Record)
  deriving DecidableEq, Repr

/-- What `Decode(frame)` gives (R75): a packet, a drop, or `notAFrame` for bytes outside its operand precondition
`len(frame) = 10 + frame[8]`. -/
inductive FrameDecode where
  | packet (p : Packet)
  | drop (r : DropReason)
  | notAFrame
  deriving DecidableEq, Repr

/-- The frame buffer: the only addressable storage, byte `k` at frame offset `k` (R17, R34). A dense byte sequence, so
the list is its own canonical form (log entry 10). -/
abbrev Memory := List Byte

/-- Stops with a fault. Each is a stuck state: the model has no step where the spec gives none. -/
inductive Fault where
  /-- `step`: no input event is ready; the block waits for its environment (R11; log entry 4). Safe. -/
  | noInput
  /-- `step`, and a receive event or received frame given to `exec`: the reader is not running, so the receive agent has
  no step and the byte waits in the transport (R65, R105; I8 "stuck"; log entry 4). Safe. -/
  | receiveWaits
  /-- The four frame-rx meanings and a completing RX_BYTE: the bytes are no frame of length 10 + N, outside the operand
  precondition of `Decode` (R75). No state that meets the invariant of R26 raises it (log entry 10). Safe. -/
  | notAFrame
  /-- RX_BYTE: a buffer offset at or beyond `FB_CAP` = 265, which does not exist (R34, R72). No state that meets the
  invariant of R26 raises it (log entry 10). Safe. -/
  | noSuchOffset
  deriving DecidableEq, Repr

/-- Stops with a refusal: no meaning. -/
inductive Refusal where
  /-- `exec`: an instruction whose arm has no meaning yet; no arm raises it now. Safe. -/
  | notModelled (mnemonic : String)
  /-- `step`: an event code 0x8 to 0xF; the spec has a model refuse it, and hardware ignore it (R60, I13; log entry 6). Safe. -/
  | reservedEvent
  /-- `step`: an event whose operand bytes are not those R59 gives it (log entry 5). Safe. -/
  | malformedEvent
  /-- The four frame-tx meanings: more than 253 data bytes, outside the precondition of `EncodeRpc` (R84; log entry 9). Safe. -/
  | encodePrecondition
  deriving DecidableEq, Repr

/-- The complete state of the block (R15), its fixed parameters (R32), and the model's own view of its two ports. -/
structure State where
  /-- `SYNC` (R16) -/
  sync : Sync
  /-- `FB` (R17) -/
  fb : Memory
  /-- `EXPLEN` (R18) -/
  expLen : Nat
  /-- `DEVSTATE`, with `DEVSTATE_VALID` as the Option (R19) -/
  devState : Option Byte
  /-- `ERRCODE` (R20) -/
  errCode : Byte
  /-- `LINK` (R21) -/
  link : Link
  /-- `READER` (R22) -/
  reader : Reader
  /-- `PEND_KIND` (R23) -/
  pendKind : PendKind
  /-- `PEND_CMD` (R24) -/
  pendCmd : Byte
  /-- `PEND_RECS` (R25) -/
  pendRecs : List Record
  /-- the parameters of the instance (R32; log entry 2) -/
  cfg : Config
  /-- input events made ready at the two ports, in the environment's total order (R30, R120; log entry 3) -/
  input : List InputWord
  /-- every output event so far, oldest first (R31, R115; log entry 7) -/
  out : List OutEvent
  /-- the synchronous return value of the last step (R10, R114; log entry 7) -/
  status : Option Status
  deriving DecidableEq, Repr

/-- A new instance with given parameters: R124's table; nothing received, nothing emitted (R125). -/
def State.create (cfg : Config) : State where
  sync := .unknown
  fb := []
  expLen := 0
  devState := none
  errCode := errNone
  link := .connecting
  reader := .idle
  pendKind := .none
  pendCmd := 0x00
  pendRecs := []
  cfg := cfg
  input := []
  out := []
  status := none

/-- The machine right after reset (R124, R125), with the parameters the spec leaves open (log entries 2 and 12). -/
def State.reset : State := State.create Config.created

end Sys2Proof.Machine
end

