-- ==== Sys2Proof/Machine/Ops.lean ====
section
/-! DEFINITION. The named operations over the frame buffer and the state (spec/00_scope.md R10, spec/20_memory.md R34),
taking the next input event (spec/30_encoding.md R58, spec/40_framer.md R65), and the shared ends of a frame, a call and
the reader (spec/60_exceptions.md R112, R113, spec/43_reader_link.md R106). The block has no exception entry or return
(R110): a drop, a failed call and a termination are its only failures. -/

namespace Sys2Proof.Machine

/-! ### The frame buffer -/

/-- The buffer keeps within its storage, offsets 0 to 264 (R34, `FB_CAP` of R7). -/
def Memory.wf (m : Memory) : Bool := m.length ≤ fbCap

/-- The buffer as (offset, byte) cells: byte `k` of the sequence at offset `k`. -/
def Memory.cells (m : Memory) : List Host.Cell := m.zipIdx.map fun p => (p.2, p.1)

/-- `MemRead(addr, n)`: `FB[addr..addr+n)`; `none` where an offset holds nothing (R10, R34). -/
def memRead (m : Memory) (addr n : Nat) : Option (List Byte) :=
  if addr + n ≤ m.length then some ((m.drop addr).take n) else none

/-- `MemWrite(addr, n, v)` with `n` the length of `v` (R10); `none` where an offset does not exist (R34) or where the
write would leave an offset below it empty, which no rule does. -/
def memWrite (m : Memory) (addr : Nat) (v : List Byte) : Option Memory :=
  if addr ≤ m.length ∧ addr + v.length ≤ fbCap then some (m.take addr ++ v ++ m.drop (addr + v.length)) else none

/-! ### Outputs -/

/-- `Emit(ev)` (R10). -/
def emit (ev : OutEvent) (s : State) : State := { s with out := s.out ++ [ev] }

/-- `raise Drop(reason)`: the DROP event; what was written before it stays (R10, R112). -/
def raiseDrop (r : DropReason) (s : State) : State := emit (.drop r) s

/-- `TxWrite(bytes)` (R10): one TX event, which the sink always accepts (R38, D26; log entry 14). -/
def txWrite (bytes : List Byte) (s : State) : State := emit (.tx bytes) s

/-- `return status` of a host operation (R10). -/
def returnStatus (st : Status) (s : State) : State := { s with status := some st }

/-! ### Shared state changes -/

/-- `FB <- []; EXPLEN <- 0; SYNC <- UNKNOWN` (R66, R106). -/
def framerReset (s : State) : State := { s with fb := [], expLen := 0, sync := .unknown }

/-- `PEND_KIND <- NONE; PEND_RECS <- []` (R90, R91, R95, R96, R106). -/
def clearPending (s : State) : State := { s with pendKind := .none, pendRecs := [] }

/-- `if LINK = CONNECTING then LINK <- CONNECTED` (R89, R90). -/
def linkObserved (s : State) : State := if s.link = .connecting then { s with link := .connected } else s

/-- The pending call, if there is one, fails and its slot is emptied (R90, R95, R106, R113). -/
def failPending (kind : FailKind) (code : Byte) (s : State) : State :=
  if s.pendKind ≠ .none then clearPending (emit (.doneFail s.pendCmd kind code) s) else s

/-- `Terminate()`: the shared end of the reader, reached only from RUNNING (R106). -/
def terminate (s : State) : State :=
  let s := if s.fb ≠ [] then raiseDrop .partialAtEnd s else s
  let s := { framerReset s with reader := .stopped, link := .error }
  let s := if s.cfg.rejectOnDisconnect then failPending .disconnected 0x00 s else s
  emit .disconnected s

/-- A receive event has a step only while `READER` = RUNNING (R65, R105); otherwise the receive agent waits (I8). -/
def whenRunning (s : State) (k : Host.Outcome State Fault Refusal) : Host.Outcome State Fault Refusal :=
  if s.reader = .running then k else .fault .receiveWaits

/-! ### Taking an input event -/

/-- The receive port's events are RX_BYTE and RX_END; every other code belongs to the host port (R30, R58). -/
def isReceive (w : InputWord) : Bool := w.code == 0x0 || w.code == 0x1

/-- The next event the block takes and the events left: the first one that is enabled. While the reader is not running
the receive port's events are passed over and stay where they are, in order (R65, R126; log entry 4). -/
def nextInput (r : Reader) : List InputWord → Option (InputWord × List InputWord)
  | [] => none
  | w :: rest =>
    if r = .running ∨ isReceive w = false then some (w, rest)
    else
      match nextInput r rest with
      | some (w', rest') => some (w', w :: rest')
      | none => none

/-- Why no event can be taken: none is there, or those there wait for the reader (R65, I8). -/
def waitReason (input : List InputWord) : Fault := if input = [] then .noInput else .receiveWaits

/-- An event taken from the input; the return value of the previous step is gone (R10, R114). -/
def takeInput (rest : List InputWord) (s : State) : State := { s with input := rest, status := none }

/-- The refusal of an event the decoder refuses: a reserved code (R60), or operands R59 does not give (log entry 5). -/
def refusalOf : Reject → Refusal
  | .reservedCode => .reservedEvent
  | .operandCount => .malformedEvent
  | .noMagic => .malformedEvent
  | .frameLength => .malformedEvent
  | .noRow => .malformedEvent
  | .badChecksum => .malformedEvent
  | .badDataLength => .malformedEvent

/-! ### Placing an instruction where the next step takes it (log entry 11) -/

/-- A unit placed so that the very next step runs it. An event becomes the first input event; a receive event is
presented only while the reader runs (R126), so the reader is set running. A received frame stands in the framer up to
its last byte, which becomes the first input event (R66, R67). A transmitted frame is what an accepted ISSUE_ONE of its
command and data writes (R94), so that event becomes the first and the slot is free. -/
def placeUnit (u : Encoded) (s : State) : State :=
  match u with
  | .event w =>
    { s with input := w :: s.input, reader := if isReceive w then .running else s.reader }
  | .rxFrame f =>
    { s with
      reader := .running, sync := .proto, fb := f.dropLast, expLen := f.length,
      input := ⟨0x0, f.drop (f.length - 1)⟩ :: s.input }
  | .txFrame f =>
    { s with
      pendKind := .none, reader := if s.reader = .stopped then .idle else s.reader,
      input := ⟨0x4, (f.drop 9).take 1 ++ ((f.drop 11).dropLast)⟩ :: s.input }

/-! ### What the host may read between steps (R28) -/

/-- The host-readable elements; reading has no side effect (R28, D35). -/
structure HostStatus where
  devState : Option Byte
  errCode : Byte
  link : Link
  reader : Reader
  pendKind : PendKind
  pendCmd : Byte
  deriving DecidableEq, Repr

/-- The host's status read (R28). -/
def hostStatus (s : State) : HostStatus :=
  ⟨s.devState, s.errCode, s.link, s.reader, s.pendKind, s.pendCmd⟩

end Sys2Proof.Machine
end

