-- ==== Sys2Proof/Machine/Flags.lean ====
section
/-! DEFINITION. The block has no condition codes or arithmetic flags (spec/10_state.md R27). This file holds its two
Boolean status conditions (R27), the checks a frame passes (spec/41_codec.md R75), and the hardware codes of its
enumerations (R15, R61, R111, R113, R114). -/

namespace Sys2Proof.Machine

/-- `DEVSTATE_VALID` (R19, R27). -/
def devStateValid (s : State) : Bool := s.devState.isSome

/-- The derived condition "a call is pending" (R27). -/
def callPending (s : State) : Bool := s.pendKind != .none

/-- The checksum check: the byte at 9+N against `sum8(frame[0..9+N))` (R55, R75). It leaves no flag behind (R27). -/
def checksumOk (f : List Byte) (r : RawFrame) : Bool := r.checksum == sum8 (f.take (9 + r.payload.length))

/-- The record list is full: only a bounded `P_MAX_RECORDS` fills (R91, D18). -/
def recordsFull (s : State) : Bool := s.cfg.maxRecords == some s.pendRecs.length

/-! ### Hardware codes -/

/-- R15, R16. -/
def syncCode : Sync → BitVec 2
  | .unknown => 0
  | .proto => 1
  | .nonproto => 2

/-- R15, R21. -/
def linkCode : Link → BitVec 2
  | .connecting => 0
  | .connected => 1
  | .error => 2

/-- R15, R22. -/
def readerCode : Reader → BitVec 2
  | .idle => 0
  | .running => 1
  | .stopped => 2

/-- R15, R23. -/
def pendKindCode : PendKind → BitVec 2
  | .none => 0
  | .one => 1
  | .many => 2

/-- R111. -/
def dropCode : DropReason → Byte
  | .shortLine => 0x01
  | .nonProtocol => 0x02
  | .checksumMismatch => 0x03
  | .unsupportedVersion => 0x04
  | .unknownType => 0x05
  | .unexpectedType => 0x06
  | .badLength => 0x07
  | .malformedRpc => 0x08
  | .malformedResult => 0x09
  | .resultNoPending => 0x0A
  | .resultCmdMismatch => 0x0B
  | .partialAtEnd => 0x0C

/-- R113. -/
def failCode : FailKind → Byte
  | .code => 0x01
  | .disconnected => 0x02
  | .overflow => 0x03

/-- R114. -/
def statusCode : Status → Byte
  | .accepted => 0x00
  | .callInProgress => 0x01
  | .dataTooLong => 0x02
  | .closed => 0x03

/-- The kind code of an output event (R61). -/
def outKindCode : OutEvent → BitVec 4
  | .tx _ => 0x0
  | .drop _ => 0x1
  | .stateEvt _ => 0x2
  | .errorEvt _ => 0x3
  | .doneOne _ _ => 0x4
  | .doneMany _ _ => 0x5
  | .doneFail _ _ _ => 0x6
  | .disconnected => 0x7

/-- `DEVSTATE` in hardware: the valid bit and the value byte, 0x00 while not valid (R19). -/
def devStateBits (s : State) : BitVec 1 × Byte :=
  match s.devState with
  | none => (0, 0x00)
  | some v => (1, v)

end Sys2Proof.Machine
end

