-- ==== Sys2Proof/Machine/Correlator.lean ====
section
/-! DEFINITION. The host events of the correlator: ISSUE_ONE, ISSUE_MANY, TIMEOUT, ABANDON (spec/42_correlator.md R92 to
R96). -/

namespace Sys2Proof.Machine

/-- The slot's kind for an accepted call of a shape (R94). -/
def kindOf : Shape → PendKind
  | .one => .one
  | .many => .many

/-- `IssueCommon(shape, cmd, data)` (R94): the checks in the order written (R119), then the slot and the frame in one
step. A refusal changes nothing but the returned status. -/
def issueCommon (shape : Shape) (cmd : Byte) (data : List Byte) (s : State) : State :=
  if callPending s then returnStatus .callInProgress s
  else if data.length > maxData then returnStatus .dataTooLong s
  else if s.reader = .stopped then returnStatus .closed s
  else
    returnStatus .accepted
      (txWrite (encodeRpc cmd data) { s with pendKind := kindOf shape, pendCmd := cmd, pendRecs := [] })

/-- ISSUE_ONE (R92). -/
def execIssueOne (cmd : Byte) (data : List Byte) (s : State) : Host.Outcome State Fault Refusal :=
  .next (issueCommon .one cmd data s)

/-- ISSUE_MANY (R93). -/
def execIssueMany (cmd : Byte) (data : List Byte) (s : State) : Host.Outcome State Fault Refusal :=
  .next (issueCommon .many cmd data s)

/-- TIMEOUT (R95): the link does not move (D12). -/
def execTimeout (s : State) : Host.Outcome State Fault Refusal :=
  .next (failPending .code errTimeout (emit (.errorEvt errTimeout) { s with errCode := errTimeout }))

/-- ABANDON (R96). -/
def execAbandon (s : State) : Host.Outcome State Fault Refusal := .next (clearPending s)

end Sys2Proof.Machine
end

