-- ==== Sys2Proof/Machine/Operands.lean ====
section
/-! DEFINITION. Operand assembly from a received payload (spec/30_encoding.md R52 to R54, R57): the single value byte, the
command and data of an RPC, and the command and length-prefixed fields of an RPC_RESULT. `none` where the payload has not
the structure the rule asks for. -/

namespace Sys2Proof.Machine

/-- The one payload byte of a CURRENT_STATE or ERROR_STATE frame (R50, R51). -/
def singleByte : List Byte → Option Byte
  | [v] => some v
  | _ => none

/-- `[command, dataLen] ++ data` with dataLen the number of data bytes (R52, R78). -/
def rpcOperands : List Byte → Option (Byte × List Byte)
  | cmd :: len :: data => if len.toNat = data.length then some (cmd, data) else none
  | _ => none

/-- Length-prefixed fields that tile the bytes exactly (R54, R80). The first argument bounds the number of fields: the
loop of R80 runs at most as often as there are bytes. -/
def fieldsWithin : Nat → List Byte → Option Record
  | _, [] => some []
  | 0, _ :: _ => none
  | n + 1, len :: rest =>
    if len.toNat ≤ rest.length then
      match fieldsWithin n (rest.drop len.toNat) with
      | some fs => some (rest.take len.toNat :: fs)
      | none => none
    else none

/-- The fields of the T bytes after an RPC_RESULT's totalLen (R80). -/
def parseFields (bytes : List Byte) : Option Record := fieldsWithin bytes.length bytes

/-- `[command, T] ++ fields` with T the number of bytes after it (R53, R80). -/
def resultOperands : List Byte → Option (Byte × Record)
  | cmd :: total :: bytes =>
    if total.toNat = bytes.length then
      match parseFields bytes with
      | some fs => some (cmd, fs)
      | none => none
    else none
  | _ => none

end Sys2Proof.Machine
end

