-- ==== Sys2Proof/Machine/Codec.lean ====
section
/-! DEFINITION. `Decode` (spec/41_codec.md R75 to R80) and `Dispatch` (spec/42_correlator.md R88 to R91) of a completed
received frame, and their hand-off `Deliver` (spec/40_framer.md R67). -/

namespace Sys2Proof.Machine

/-- `DecodeState(P)` (R76). -/
def decodeState (p : List Byte) : FrameDecode :=
  match singleByte p with
  | some v => .packet (.currentState v)
  | none => .drop .badLength

/-- `DecodeError(P)` (R77). -/
def decodeError (p : List Byte) : FrameDecode :=
  match singleByte p with
  | some e => .packet (.errorState e)
  | none => .drop .badLength

/-- `DecodeRpc(P)` (R78). -/
def decodeRpc (p : List Byte) : FrameDecode :=
  match rpcOperands p with
  | some (cmd, data) => .packet (.rpc cmd data)
  | none => .drop .malformedRpc

/-- `DecodeResult(P)` (R80). -/
def decodeResult (p : List Byte) : FrameDecode :=
  match resultOperands p with
  | some (cmd, fields) => .packet (.rpcResult cmd fields)
  | none => .drop .malformedResult

/-- The branch on the message type (R75); any other type is unknown (R79). -/
def decodePayload (t : Byte) (p : List Byte) : FrameDecode :=
  if t = typeCurrentState then decodeState p
  else if t = typeErrorState then decodeError p
  else if t = typeRpc then decodeRpc p
  else if t = typeRpcResult then decodeResult p
  else .drop .unknownType

/-- `Decode(frame)`: checksum, then version, then type, then payload (R75, R117). -/
def decodeFrame (f : List Byte) : FrameDecode :=
  match frameOperands f with
  | none => .notAFrame
  | some r =>
    if checksumOk f r = false then .drop .checksumMismatch
    else if r.version ≠ version then .drop .unsupportedVersion
    else decodePayload r.type r.payload

/-- `OnState(v)` (R89). -/
def onState (v : Byte) (s : State) : State :=
  emit (.stateEvt v) (linkObserved { s with devState := some v })

/-- `OnError(e)` (R90). -/
def onError (e : Byte) (s : State) : State :=
  let s := emit (.errorEvt e) (linkObserved { s with errCode := e })
  if e ≠ errNone then failPending .code e s else s

/-- `OnResult(c, fields)` (R91), line by line; a single-response call leaves `PEND_RECS` as it is (log entry 16). -/
def onResult (c : Byte) (fields : Record) (s : State) : State :=
  if s.pendKind = .none then raiseDrop .resultNoPending s
  else if c ≠ s.pendCmd then raiseDrop .resultCmdMismatch s
  else if s.pendKind = .one then { emit (.doneOne c fields) s with pendKind := .none }
  else if fields = [] then clearPending (emit (.doneMany c s.pendRecs) s)
  else if recordsFull s then clearPending (emit (.doneFail c .overflow 0x00) s)
  else { s with pendRecs := s.pendRecs ++ [fields] }

/-- `Dispatch(pkt)` (R88). -/
def dispatch (p : Packet) (s : State) : State :=
  match p with
  | .currentState v => onState v s
  | .errorState e => onError e s
  | .rpcResult c fields => onResult c fields s
  | .rpc _ _ => raiseDrop .unexpectedType s

/-- `Deliver(frame)` (R67): decode, and dispatch what decoding yields. -/
def deliver (f : List Byte) (s : State) : Host.Outcome State Fault Refusal :=
  match decodeFrame f with
  | .packet p => .next (dispatch p s)
  | .drop r => .next (raiseDrop r s)
  | .notAFrame => .fault .notAFrame

end Sys2Proof.Machine
end

