-- ==== Sys2Proof/Machine/Framer.lean ====
section
/-! DEFINITION. RX_BYTE: the framer's byte step (spec/40_framer.md R65 to R69). -/

namespace Sys2Proof.Machine

/-- The NONPROTO case of R66: every byte is discarded; a newline ends the line. -/
def rxInLine (b : Byte) (s : State) : State := if b = newline then { s with sync := .unknown } else s

/-- The PROTO case of R66: the byte is appended, whatever it is; the last expected byte delivers the frame, after the
framer has been reset (R67). -/
def rxInFrame (b : Byte) (s : State) : Host.Outcome State Fault Refusal :=
  match memWrite s.fb s.fb.length [b] with
  | some fb =>
    if fb.length = s.expLen then deliver fb (framerReset { s with fb := fb }) else .next { s with fb := fb }
  | none => .fault .noSuchOffset

/-- The end of the UNKNOWN case of R66, once the byte is in the buffer: at nine bytes the magic decides. -/
def headerDecision (s : State) : State :=
  if s.fb.length = hdrLen then
    if s.fb.take 6 = magic then
      { s with sync := .proto, expLen := 10 + (s.fb.getD 8 0x00).toNat }
    else raiseDrop .nonProtocol { s with fb := [], sync := .nonproto }
  else s

/-- The UNKNOWN case of R66: a newline ends the candidate at every fill level (D3), any other byte is appended. -/
def rxUnknown (b : Byte) (s : State) : Host.Outcome State Fault Refusal :=
  if b = newline then .next { (if s.fb ≠ [] then raiseDrop .shortLine s else s) with fb := [] }
  else
    match memWrite s.fb s.fb.length [b] with
    | some fb => .next (headerDecision { s with fb := fb })
    | none => .fault .noSuchOffset

/-- RX_BYTE (R66), enabled only while the reader runs (R65). -/
def execRxByte (b : Byte) (s : State) : Host.Outcome State Fault Refusal :=
  whenRunning s
    (match s.sync with
    | .nonproto => .next (rxInLine b s)
    | .proto => rxInFrame b s
    | .unknown => rxUnknown b s)

end Sys2Proof.Machine
end

