-- ==== Sys2Proof/Machine/Frames.lean ====
section
/-! DEFINITION. The meanings of the frame rows of the opcode table: a completed received frame is delivered
(spec/40_framer.md R67), which can happen only while the reader runs (R65; log entry 8); a transmitted request is one TX
event (spec/41_codec.md R84, spec/20_memory.md R38; log entry 9). -/

namespace Sys2Proof.Machine

/-- A completed received frame of type `t`. -/
def receiveFrame (t : Byte) (payload : List Byte) (checksum : Byte) (s : State) :
    Host.Outcome State Fault Refusal :=
  whenRunning s (deliver (frameWith t payload checksum) s)

/-- A transmitted request: `TxWrite(EncodeRpc(cmd, data))`, within `EncodeRpc`'s precondition (R84). -/
def transmitRequest (cmd : Byte) (data : List Byte) (s : State) : Host.Outcome State Fault Refusal :=
  if data.length ≤ maxData then .next (txWrite (encodeRpc cmd data) s) else .refused .encodePrecondition

/-- CURRENT_STATE (R76, R89). -/
def execCurrentState (payload : List Byte) (checksum : Byte) (s : State) : Host.Outcome State Fault Refusal :=
  receiveFrame typeCurrentState payload checksum s

/-- ERROR_STATE (R77, R90). -/
def execErrorState (payload : List Byte) (checksum : Byte) (s : State) : Host.Outcome State Fault Refusal :=
  receiveFrame typeErrorState payload checksum s

/-- RPC received (R78, R88). -/
def execRpc (payload : List Byte) (checksum : Byte) (s : State) : Host.Outcome State Fault Refusal :=
  receiveFrame typeRpc payload checksum s

/-- RPC_RESULT (R80, R91). -/
def execRpcResult (payload : List Byte) (checksum : Byte) (s : State) : Host.Outcome State Fault Refusal :=
  receiveFrame typeRpcResult payload checksum s

/-- TX_SEND_WIFI_SETTINGS (R84). -/
def execTxSendWifiSettings (data : List Byte) (s : State) : Host.Outcome State Fault Refusal :=
  transmitRequest cmdSendWifiSettings data s

/-- TX_REQUEST_CURRENT_STATE (R84). -/
def execTxRequestCurrentState (data : List Byte) (s : State) : Host.Outcome State Fault Refusal :=
  transmitRequest cmdRequestCurrentState data s

/-- TX_REQUEST_INFO (R84). -/
def execTxRequestInfo (data : List Byte) (s : State) : Host.Outcome State Fault Refusal :=
  transmitRequest cmdRequestInfo data s

/-- TX_REQUEST_WIFI_NETWORKS (R84). -/
def execTxRequestWifiNetworks (data : List Byte) (s : State) : Host.Outcome State Fault Refusal :=
  transmitRequest cmdRequestWifiNetworks data s

end Sys2Proof.Machine
end

