-- ==== Sys2Proof/Machine/ReaderLink.lean ====
section
/-! DEFINITION. The events that start and end the reading of the byte stream: START, CLOSE, RX_END (spec/43_reader_link.md
R103 to R106). -/

namespace Sys2Proof.Machine

/-- START (R103): acts only in IDLE. -/
def execStart (s : State) : Host.Outcome State Fault Refusal :=
  .next (if s.reader = .idle then { s with reader := .running } else s)

/-- CLOSE (R104): acts only in RUNNING. -/
def execClose (s : State) : Host.Outcome State Fault Refusal :=
  .next (if s.reader = .running then terminate s else s)

/-- RX_END (R105): a receive event, so it has a step only in RUNNING. -/
def execRxEnd (s : State) : Host.Outcome State Fault Refusal := whenRunning s (.next (terminate s))

end Sys2Proof.Machine
end

