-- ==== Sys2Proof/Machine/Dispatch.lean ====
section
/-! DEFINITION. One arm per constructor of Instr, each one direct call of that instruction's meaning. -/

namespace Sys2Proof.Machine

def exec (i : Instr) (s : State) : Host.Outcome State Fault Refusal :=
  match i with
  -- input events
  | .rxByte b => Sys2Proof.Machine.execRxByte b s
  | .rxEnd => Sys2Proof.Machine.execRxEnd s
  | .start => Sys2Proof.Machine.execStart s
  | .close => Sys2Proof.Machine.execClose s
  | .issueOne cmd data => Sys2Proof.Machine.execIssueOne cmd data s
  | .issueMany cmd data => Sys2Proof.Machine.execIssueMany cmd data s
  | .timeout => Sys2Proof.Machine.execTimeout s
  | .abandon => Sys2Proof.Machine.execAbandon s
  -- received frames
  | .currentState payload checksum => Sys2Proof.Machine.execCurrentState payload checksum s
  | .errorState payload checksum => Sys2Proof.Machine.execErrorState payload checksum s
  | .rpc payload checksum => Sys2Proof.Machine.execRpc payload checksum s
  | .rpcResult payload checksum => Sys2Proof.Machine.execRpcResult payload checksum s
  -- transmitted frames
  | .txSendWifiSettings data => Sys2Proof.Machine.execTxSendWifiSettings data s
  | .txRequestCurrentState data => Sys2Proof.Machine.execTxRequestCurrentState data s
  | .txRequestInfo data => Sys2Proof.Machine.execTxRequestInfo data s
  | .txRequestWifiNetworks data => Sys2Proof.Machine.execTxRequestWifiNetworks data s

end Sys2Proof.Machine
end

