-- ==== Sys2Proof/Machine/Step.lean ====
section
/-! DEFINITION. One step: one input event taken and run (spec/00_scope.md R11, spec/30_encoding.md R58). -/

namespace Sys2Proof.Machine

/-- One step of the block: the first enabled input event (R65, R120), decoded and run as one atomic step (R11). With no
enabled event the block waits (log entry 4); an event that spells nothing is refused by name (R60). -/
def step (s : State) : Host.Outcome State Fault Refusal :=
  match nextInput s.reader s.input with
  | some (w, rest) =>
    match decode (.event w) with
    | .ok i => exec i (takeInput rest s)
    | .error e => .refused (refusalOf e)
  | none => .fault (waitReason s.input)

/-- A table word placed so that the very next step runs it (log entry 11). -/
def State.withFetchWord (s : State) (nbits w : Nat) : State := placeUnit (tableUnit nbits w) s

end Sys2Proof.Machine
end

