-- ==== Sys2Proof/Safety.lean ====
section
/-! DEFINITION. The terms statements use: the invariants of spec/10_state.md R26, runs of received bytes, what a step adds
to the outputs, and which input event an instruction is. -/

namespace Sys2Proof.Machine

/-! ### The invariants of R26, grouped by unit -/

/-- The framer's part of R26 and R17: PROTO exactly when EXPLEN is set, and then the buffer holds a header that begins
with the magic, EXPLEN = 10 + FB[8] and the frame is not complete; NONPROTO with an empty buffer; UNKNOWN with at most
eight bytes, none a newline. -/
abbrev FramerInv (s : State) : Prop :=
  (s.sync = .proto ↔ s.expLen ≠ 0) ∧
  (s.sync = .proto →
    9 ≤ s.fb.length ∧ s.fb.length < s.expLen ∧ s.expLen = 10 + (s.fb.getD 8 0x00).toNat ∧ s.fb.take 6 = magic) ∧
  (s.sync = .nonproto → s.fb = []) ∧
  (s.sync = .unknown → s.fb.length ≤ 8 ∧ newline ∉ s.fb)

/-- The slot's part of R26: records only while PEND_KIND is MANY, and each has a field. -/
abbrev SlotInv (s : State) : Prop :=
  (s.pendKind ≠ .many → s.pendRecs = []) ∧ (∀ r ∈ s.pendRecs, r ≠ [])

/-- The record list keeps within `P_MAX_RECORDS` where that is bounded (R15, R25). -/
abbrev CapacityInv (s : State) : Prop :=
  ∀ n, s.cfg.maxRecords = some n → s.pendRecs.length ≤ n

/-- The reader's and the link's part of R26. -/
abbrev ReaderInv (s : State) : Prop :=
  (s.reader = .stopped ↔ s.link = .error) ∧
  (s.reader ≠ .running → s.sync = .unknown ∧ s.fb = []) ∧
  (s.link = .connected → s.reader = .running)

/-- The invariants of R26, with the capacity of R25. -/
abbrev StateInv (s : State) : Prop := FramerInv s ∧ SlotInv s ∧ CapacityInv s ∧ ReaderInv s

/-- The header a PROTO frame began with holds no newline byte, so its length byte is not 0x0A (R66, R130). -/
abbrev HeaderInv (s : State) : Prop := s.sync = .proto → newline ∉ s.fb.take 9

/-- DISCONNECTED has been emitted once if the reader has stopped, and never otherwise (R108). -/
abbrev DisconnectedOnce (s : State) : Prop :=
  (s.reader = .stopped → s.out.count .disconnected = 1) ∧ (s.reader ≠ .stopped → .disconnected ∉ s.out)

/-- Every TX event holds one whole RPC request frame with at most 253 data bytes (R49, R84, R134). -/
def OnlyRequestsSent (s : State) : Prop :=
  ∀ bytes, OutEvent.tx bytes ∈ s.out → ∃ cmd data, data.length ≤ maxData ∧ bytes = encodeRpc cmd data

/-! ### Runs -/

/-- One RX_BYTE step for each byte of a run, stopping at the first fault or refusal. -/
def receive : List Byte → State → Host.Outcome State Fault Refusal
  | [], s => .next s
  | b :: bs, s =>
    match exec (.rxByte b) s with
    | .next t => receive bs t
    | .fault r => .fault r
    | .refused r => .refused r

/-- The next state of an outcome, if it has one. -/
def next? : Host.Outcome State Fault Refusal → Option State
  | .next t => some t
  | .fault _ => none
  | .refused _ => none

/-! ### Kinds of events -/

/-- An output event that ends the pending call: DONE_ONE, DONE_MANY or DONE_FAIL (R61, R99). -/
def isCompletion : OutEvent → Bool
  | .doneOne _ _ => true
  | .doneMany _ _ => true
  | .doneFail _ _ _ => true
  | .tx _ => false
  | .drop _ => false
  | .stateEvt _ => false
  | .errorEvt _ => false
  | .disconnected => false

/-- The command a completion names (R61). -/
def completionCmd : OutEvent → Option Byte
  | .doneOne cmd _ => some cmd
  | .doneMany cmd _ => some cmd
  | .doneFail cmd _ _ => some cmd
  | .tx _ => none
  | .drop _ => none
  | .stateEvt _ => none
  | .errorEvt _ => none
  | .disconnected => none

/-- The instruction receives something: a byte, or a completed frame. -/
def receives : Instr → Bool
  | .rxByte _ => true
  | .currentState _ _ => true
  | .errorState _ _ => true
  | .rpc _ _ => true
  | .rpcResult _ _ => true
  | .rxEnd => false
  | .start => false
  | .close => false
  | .issueOne _ _ => false
  | .issueMany _ _ => false
  | .timeout => false
  | .abandon => false
  | .txSendWifiSettings _ => false
  | .txRequestCurrentState _ => false
  | .txRequestInfo _ => false
  | .txRequestWifiNetworks _ => false

/-- The instruction can end the reader: CLOSE and RX_END (R101). -/
def endsReader : Instr → Bool
  | .close => true
  | .rxEnd => true
  | .rxByte _ => false
  | .currentState _ _ => false
  | .errorState _ _ => false
  | .rpc _ _ => false
  | .rpcResult _ _ => false
  | .start => false
  | .issueOne _ _ => false
  | .issueMany _ _ => false
  | .timeout => false
  | .abandon => false
  | .txSendWifiSettings _ => false
  | .txRequestCurrentState _ => false
  | .txRequestInfo _ => false
  | .txRequestWifiNetworks _ => false

/-- The instruction is an issue: ISSUE_ONE or ISSUE_MANY (R92, R93). -/
def issues : Instr → Bool
  | .issueOne _ _ => true
  | .issueMany _ _ => true
  | .rxByte _ => false
  | .rxEnd => false
  | .start => false
  | .close => false
  | .timeout => false
  | .abandon => false
  | .currentState _ _ => false
  | .errorState _ _ => false
  | .rpc _ _ => false
  | .rpcResult _ _ => false
  | .txSendWifiSettings _ => false
  | .txRequestCurrentState _ => false
  | .txRequestInfo _ => false
  | .txRequestWifiNetworks _ => false

end Sys2Proof.Machine
end

