-- ==== Sys2Proof/Certificates/Slice0/Obligations.lean ====
section
/-! DEFINITION. Statements for the provers. Each docstring names the rule of spec/ it formalises. A next state is written
out as a record update of the state before, so that every element it does not name is unchanged. Where a rule rests on one
of the spec's own decisions D<n> (spec/92_eei_decisions.md), the docstring says so. -/

open Sys2Proof Sys2Proof.Machine

/-! ### Reset and invariants -/

/-- R124, R125: reset puts every element at the table's value and emits nothing (SYNC, FB, EXPLEN, PEND_CMD, PEND_RECS and
READER are the spec's own decisions D21, D13). Nothing is said of the open parameters. -/
def Obligations.ResetPutsEveryElementAtItsTableValue : Prop :=
  State.reset.sync = .unknown ∧ syncCode State.reset.sync = 0 ∧
  State.reset.fb = [] ∧ State.reset.expLen = 0 ∧
  State.reset.devState = none ∧ devStateBits State.reset = (0, 0x00) ∧
  State.reset.errCode = 0x00 ∧
  State.reset.link = .connecting ∧ linkCode State.reset.link = 0 ∧
  State.reset.reader = .idle ∧ readerCode State.reset.reader = 0 ∧
  State.reset.pendKind = .none ∧ pendKindCode State.reset.pendKind = 0 ∧
  State.reset.pendCmd = 0x00 ∧ State.reset.pendRecs = [] ∧
  State.reset.out = []

/-- R26 (an inference the spec marks as its own) and the other invariants below hold right after reset. -/
def Obligations.ResetMeetsTheInvariants : Prop :=
  StateInv State.reset ∧ HeaderInv State.reset ∧ DisconnectedOnce State.reset ∧ OnlyRequestsSent State.reset

/-- R26 (an inference the spec marks as its own), with the capacity of R25 and the lengths of R17: every step from a state
that meets the invariants ends in one that meets them. -/
def Obligations.StepKeepsTheStateInvariants : Prop :=
  ∀ s t : State, StateInv s → step s = .next t → StateInv t

/-- R108 (an inference the spec marks as its own): DISCONNECTED is emitted when the reader stops, and at no other time, so
at most once in the life of a block. -/
def Obligations.StepKeepsDisconnectedOnce : Prop :=
  ∀ s t : State, DisconnectedOnce s → step s = .next t → DisconnectedOnce t

/-- R49, R134: the block transmits nothing but whole RPC request frames of at most 253 data bytes. -/
def Obligations.StepSendsOnlyRequestFrames : Prop :=
  ∀ s t : State, OnlyRequestsSent s → step s = .next t → OnlyRequestsSent t

/-- R130 (an inference the spec marks as its own; decision D3): no frame with payload length 0x0A is ever being received;
the header of a frame in reception never holds a newline, so EXPLEN is never 10 + 10. -/
def Obligations.FrameOfPayloadLengthTenIsNeverReceived : Prop :=
  (∀ s t : State, StateInv s → HeaderInv s → step s = .next t → HeaderInv t) ∧
  (∀ s : State, StateInv s → HeaderInv s → s.expLen ≠ 20)

/-! ### Encoding and the step -/

/-- Decoding the encoding of a well-formed instruction gives the instruction back, with every operand at every value the
encoding admits (R45, R52, R58, R59; the event operand layout is the model's, log entry 5). -/
def Obligations.DecodeOfEncodeIsTheInstruction : Prop :=
  ∀ i : Instr, wellFormed i = true → decode (encode i) = .ok i

/-- Words written out from R45, R52, R55 and R58 (bytes of spec/95_test_vectors.md V1, V27d, V20, V28b, V21) decode to what
they stand for; a transmitted and a received RPC frame are told apart by their side. -/
def Obligations.WrittenOutWordsDecodeToTheirInstructions : Prop :=
  decode (.event ⟨0b0000, [0x49]⟩) = .ok (.rxByte 0x49) ∧
  decode (.event ⟨0b0010, []⟩) = .ok .start ∧
  decode (.event ⟨0b0101, [0x04, 0xAA]⟩) = .ok (.issueMany 0x04 [0xAA]) ∧
  decode (.rxFrame [0x49, 0x4D, 0x50, 0x52, 0x4F, 0x56, 0x01, 0x01, 0x01, 0x02, 0xE2])
    = .ok (.currentState [0x02] 0xE2) ∧
  decode (.rxFrame [0x49, 0x4D, 0x50, 0x52, 0x4F, 0x56, 0x01, 0x02, 0x01, 0x03, 0xE4])
    = .ok (.errorState [0x03] 0xE4) ∧
  decode (.rxFrame [0x49, 0x4D, 0x50, 0x52, 0x4F, 0x56, 0x01, 0x03, 0x02, 0x03, 0x00, 0xE6])
    = .ok (.rpc [0x03, 0x00] 0xE6) ∧
  decode (.rxFrame [0x49, 0x4D, 0x50, 0x52, 0x4F, 0x56, 0x01, 0x04, 0x02, 0x04, 0x00, 0xE8])
    = .ok (.rpcResult [0x04, 0x00] 0xE8) ∧
  decode (.txFrame [0x49, 0x4D, 0x50, 0x52, 0x4F, 0x56, 0x01, 0x03, 0x02, 0x03, 0x00, 0xE6])
    = .ok (.txRequestInfo []) ∧
  decode (.txFrame [0x49, 0x4D, 0x50, 0x52, 0x4F, 0x56, 0x01, 0x03, 0x0E, 0x01, 0x0C, 0x04, 0x48, 0x6F, 0x6D, 0x65,
      0x06, 0x73, 0x65, 0x63, 0x72, 0x65, 0x74, 0x15])
    = .ok (.txSendWifiSettings [0x04, 0x48, 0x6F, 0x6D, 0x65, 0x06, 0x73, 0x65, 0x63, 0x72, 0x65, 0x74])

/-- R11, R58: one step takes the first input event and runs it; the event leaves the input and the previous return value is
gone. (The input list is the model's view of the ports, log entry 3.) -/
def Obligations.StepRunsTheDecodedEvent : Prop :=
  ∀ (s : State) (w : InputWord) (rest : List InputWord) (i : Instr),
    s.input = w :: rest → (s.reader = .running ∨ isReceive w = false) → decode (.event w) = .ok i →
    step s = exec i { s with input := rest, status := none }

/-- R65 (decision D13): while the reader is not running no receive event has a step; those ready stay where they are, in
order, and the first host event behind them is taken; with none there the block waits. -/
def Obligations.ReceiveEventsWaitWhileNotRunning : Prop :=
  ∀ s : State, s.reader ≠ .running →
    (∀ b, exec (.rxByte b) s = .fault .receiveWaits) ∧
    (s.input ≠ [] → (∀ h ∈ s.input, isReceive h = true) → step s = .fault .receiveWaits) ∧
    (∀ (held rest : List InputWord) (w : InputWord) (i : Instr),
      s.input = held ++ w :: rest → (∀ h ∈ held, isReceive h = true) → isReceive w = false →
      decode (.event w) = .ok i → step s = exec i { s with input := held ++ rest, status := none })

/-- R60, I13 (decision D19): a model refuses the reserved event codes 0x8 to 0xF, whatever their operands. -/
def Obligations.ReservedEventCodesAreRefused : Prop :=
  ∀ (s : State) (w : InputWord) (rest : List InputWord),
    s.input = w :: rest → 8 ≤ w.code.toNat → step s = .refused .reservedEvent

/-! ### The framer -/

/-- R66 (decisions D3, D4, D27): the framer's byte step in its three sync states, for a buffer below its capacity (R72). The
byte that completes a frame delivers it after the framer has been reset (R67). -/
def Obligations.RxByteFollowsTheSyncState : Prop :=
  ∀ (b : Byte) (s : State), s.reader = .running → s.fb.length < fbCap →
    exec (.rxByte b) s =
      match s.sync with
      | .nonproto => .next (if b = 0x0A then { s with sync := .unknown } else s)
      | .proto =>
        if s.fb.length + 1 = s.expLen then
          deliver (s.fb ++ [b]) { s with fb := [], expLen := 0, sync := .unknown }
        else .next { s with fb := s.fb ++ [b] }
      | .unknown =>
        if b = 0x0A then
          .next { s with fb := [], out := if s.fb = [] then s.out else s.out ++ [.drop .shortLine] }
        else if s.fb.length + 1 = 9 then
          if (s.fb ++ [b]).take 6 = magic then
            .next { s with fb := s.fb ++ [b], sync := .proto, expLen := 10 + b.toNat }
          else .next { s with fb := [], sync := .nonproto, out := s.out ++ [.drop .nonProtocol] }
        else .next { s with fb := s.fb ++ [b] }

/-- R72, R73 (inferences the spec marks as its own), R118: from every state that meets the invariants of R26, while the
reader runs, every byte has a next state; the buffer then holds at most 264 bytes and at most two events are emitted. -/
def Obligations.RxByteAlwaysCompletes : Prop :=
  ∀ (b : Byte) (s : State), StateInv s → s.reader = .running →
    ∃ (t : State) (evs : List OutEvent),
      exec (.rxByte b) s = .next t ∧ t.fb.length ≤ 264 ∧ t.out = s.out ++ evs ∧ evs.length ≤ 2

/-- A received byte that completes a frame matching a frame-rx row (R64) runs that row, after the framer reset (R67). That a
frame-rx row is an instruction of its own is the model's reading, log entry 8 (DEDUCED). -/
def Obligations.CompletedFrameRunsItsTableRow : Prop :=
  ∀ (b : Byte) (s : State) (i : Instr),
    s.reader = .running → s.sync = .proto → s.fb.length < fbCap → s.fb.length + 1 = s.expLen →
    decode (.rxFrame (s.fb ++ [b])) = .ok i →
    exec (.rxByte b) s = exec i { s with fb := [], expLen := 0, sync := .unknown }

/-- R47, R79, R117: a completed frame that matches no row: a wrong checksum is reported first, then a wrong version, then an
unassigned type; the frame is dropped, only the framer is reset. (R79 rests on decision D5.) -/
def Obligations.FrameOfNoRowIsDropped : Prop :=
  ∀ (b : Byte) (s : State) (v t : Byte) (p : List Byte) (c : Byte),
    s.reader = .running → s.sync = .proto → s.fb.length < fbCap → s.fb.length + 1 = s.expLen → p.length ≤ 255 →
    s.fb ++ [b] = magic ++ [v, t, BitVec.ofNat 8 p.length] ++ p ++ [c] →
    let dropped : DropReason → State := fun r =>
      { s with fb := [], expLen := 0, sync := .unknown, out := s.out ++ [.drop r] }
    let good : Prop := c = sum8 (magic ++ [v, t, BitVec.ofNat 8 p.length] ++ p)
    (¬ good → exec (.rxByte b) s = .next (dropped .checksumMismatch)) ∧
    (good → v ≠ 0x01 → exec (.rxByte b) s = .next (dropped .unsupportedVersion)) ∧
    (good → v = 0x01 → t = 0x00 ∨ 0x05 ≤ t.toNat → exec (.rxByte b) s = .next (dropped .unknownType))

/-- R70 (an inference the spec marks as its own): after any line that is not the start of a header, ended by a newline, the
next frame with no newline in its header is delivered exactly, whatever the line was; the line leaves nothing but drops.
For lines shorter than nine bytes it rests on the spec's decision D3 (log entry 13). -/
def Obligations.FramerResynchronisesOnANewline : Prop :=
  ∀ (s : State) (l f : List Byte),
    s.reader = .running → s.fb = [] → (s.sync = .nonproto ∨ s.sync = .unknown) →
    newline ∉ l → ¬ (9 ≤ l.length ∧ l.take 6 = magic) →
    f.take 6 = magic → f.length = 10 + (f.getD 8 0x00).toNat → newline ∉ f.take 9 →
    ∃ drops : List OutEvent,
      (∀ d ∈ drops, d = .drop .shortLine ∨ d = .drop .nonProtocol) ∧
      receive (l ++ [newline] ++ f.dropLast) s =
        .next { s with sync := .proto, fb := f.dropLast, expLen := f.length, out := s.out ++ drops } ∧
      receive (l ++ [newline] ++ f) s =
        deliver f { s with sync := .unknown, fb := [], expLen := 0, out := s.out ++ drops }

/-- R71 (an inference the spec marks as its own): once a header has been taken, the bytes up to the last of the frame are
appended unexamined, newlines and real frames among them. -/
def Obligations.BytesInsideAFrameAreAppendedUnexamined : Prop :=
  ∀ (bs : List Byte) (s : State),
    s.reader = .running → s.sync = .proto → s.expLen ≤ fbCap → s.fb.length + bs.length < s.expLen →
    receive bs s = .next { s with fb := s.fb ++ bs }

/-- R69, R138 (inferences the spec marks as its own): while a non-protocol line is being discarded, bytes that hold no
newline, whole frames among them, are lost without an event; the next newline ends it. -/
def Obligations.UnterminatedLineSwallowsWhatFollows : Prop :=
  ∀ (bs : List Byte) (s : State),
    s.reader = .running → s.sync = .nonproto → newline ∉ bs →
    receive bs s = .next s ∧ receive (bs ++ [newline]) s = .next { s with sync := .unknown }

/-! ### Received frames -/

/-- R76, R89 (decisions D6, D7, D10): a CURRENT_STATE frame. -/
def Obligations.CurrentStateFrameSetsDevState : Prop :=
  ∀ (p : List Byte) (c : Byte) (s : State), s.reader = .running → p.length ≤ 255 →
    exec (.currentState p c) s = .next (
      if c ≠ sum8 (magic ++ [0x01, 0x01, BitVec.ofNat 8 p.length] ++ p) then
        { s with out := s.out ++ [.drop .checksumMismatch] }
      else
        match p with
        | [v] =>
          { s with
            devState := some v
            link := if s.link = .connecting then .connected else s.link
            out := s.out ++ [.stateEvt v] }
        | _ => { s with out := s.out ++ [.drop .badLength] })

/-- R77, R90 (decisions D6, D7, D10, D25): an ERROR_STATE frame; a non-zero code fails the pending call. -/
def Obligations.ErrorStateFrameSetsErrCodeAndFailsTheCall : Prop :=
  ∀ (p : List Byte) (c : Byte) (s : State), s.reader = .running → p.length ≤ 255 →
    exec (.errorState p c) s = .next (
      if c ≠ sum8 (magic ++ [0x01, 0x02, BitVec.ofNat 8 p.length] ++ p) then
        { s with out := s.out ++ [.drop .checksumMismatch] }
      else
        match p with
        | [e] =>
          if e ≠ 0x00 ∧ s.pendKind ≠ .none then
            { s with
              errCode := e
              link := if s.link = .connecting then .connected else s.link
              pendKind := .none
              pendRecs := []
              out := s.out ++ [.errorEvt e, .doneFail s.pendCmd .code e] }
          else
            { s with
              errCode := e
              link := if s.link = .connecting then .connected else s.link
              out := s.out ++ [.errorEvt e] }
        | _ => { s with out := s.out ++ [.drop .badLength] })

/-- R78 (decision D5): a received RPC frame changes nothing and is dropped: for its checksum, as MALFORMED_RPC, or, well
formed and decoded to its command and data, with UNEXPECTED_TYPE. -/
def Obligations.ReceivedRpcFrameIsAlwaysDropped : Prop :=
  ∀ (p : List Byte) (c : Byte) (s : State), s.reader = .running → p.length ≤ 255 →
    let good : Prop := c = sum8 (magic ++ [0x01, 0x03, BitVec.ofNat 8 p.length] ++ p)
    let wellFormedRpc : Prop := 2 ≤ p.length ∧ 2 + (p.getD 1 0x00).toNat = p.length
    let dropped : DropReason → State := fun r => { s with out := s.out ++ [.drop r] }
    (¬ good → exec (.rpc p c) s = .next (dropped .checksumMismatch)) ∧
    (good → ¬ wellFormedRpc → exec (.rpc p c) s = .next (dropped .malformedRpc)) ∧
    (good → wellFormedRpc →
      decodeFrame (magic ++ [0x01, 0x03, BitVec.ofNat 8 p.length] ++ p ++ [c]) =
        .packet (.rpc (p.getD 0 0x00) (p.drop 2)) ∧
      exec (.rpc p c) s = .next (dropped .unexpectedType))

/-- R91 (decisions D18, D23, D24): a well-formed RPC_RESULT frame (R53, R54) with its checksum, for every slot. That a
completing single-response call leaves PEND_RECS as it is follows R91's pseudocode where R25 says that it is emptied: the
model's reading, log entry 16 (DEDUCED). The two agree in every state that meets SlotInv. -/
def Obligations.ResultFrameResolvesThePendingCall : Prop :=
  ∀ (cmd : Byte) (fs : Record) (s : State), s.reader = .running →
    (∀ f ∈ fs, f.length ≤ 255) → (encodeFields fs).length ≤ 253 →
    exec (.rpcResult (resultPayload cmd fs)
        (sum8 (magic ++ [0x01, 0x04, BitVec.ofNat 8 (resultPayload cmd fs).length] ++ resultPayload cmd fs))) s =
      .next (
        match s.pendKind with
        | .none => { s with out := s.out ++ [.drop .resultNoPending] }
        | .one =>
          if cmd ≠ s.pendCmd then { s with out := s.out ++ [.drop .resultCmdMismatch] }
          else { s with pendKind := .none, out := s.out ++ [.doneOne cmd fs] }
        | .many =>
          if cmd ≠ s.pendCmd then { s with out := s.out ++ [.drop .resultCmdMismatch] }
          else if fs = [] then
            { s with pendKind := .none, pendRecs := [], out := s.out ++ [.doneMany cmd s.pendRecs] }
          else if s.cfg.maxRecords = some s.pendRecs.length then
            { s with pendKind := .none, pendRecs := [], out := s.out ++ [.doneFail cmd .overflow 0x00] }
          else { s with pendRecs := s.pendRecs ++ [fs] })

/-- R80 (decision D8): an RPC_RESULT payload of a command, a total length and fields that tile it exactly decodes to the
command and the fields; any other is dropped as MALFORMED_RESULT, and one with a wrong checksum for that; nothing else
changes. -/
def Obligations.ResultPayloadDecodesOrIsDropped : Prop :=
  ∀ (p : List Byte) (c : Byte) (s : State), s.reader = .running → p.length ≤ 255 →
    let good : Prop := c = sum8 (magic ++ [0x01, 0x04, BitVec.ofNat 8 p.length] ++ p)
    let dropped : DropReason → State := fun r => { s with out := s.out ++ [.drop r] }
    (¬ good → exec (.rpcResult p c) s = .next (dropped .checksumMismatch)) ∧
    (good →
      (∀ (cmd : Byte) (fs : Record), (∀ f ∈ fs, f.length ≤ 255) → p ≠ resultPayload cmd fs) →
      exec (.rpcResult p c) s = .next (dropped .malformedResult)) ∧
    (good →
      ∀ (cmd : Byte) (fs : Record), (∀ f ∈ fs, f.length ≤ 255) → p = resultPayload cmd fs →
      decodeFrame (magic ++ [0x01, 0x04, BitVec.ofNat 8 p.length] ++ p ++ [c]) = .packet (.rpcResult cmd fs))

/-- R65: like its bytes, a received frame has a step only while the reader runs (log entry 8). -/
def Obligations.ReceivedFramesNeedARunningReader : Prop :=
  ∀ (p : List Byte) (c : Byte) (s : State), s.reader ≠ .running →
    exec (.currentState p c) s = .fault .receiveWaits ∧ exec (.errorState p c) s = .fault .receiveWaits ∧
    exec (.rpc p c) s = .fault .receiveWaits ∧ exec (.rpcResult p c) s = .fault .receiveWaits

/-- R112: a step whose only event is a DROP changes none of DEVSTATE, ERRCODE, LINK, READER and the pending fields, and the
stream goes on. -/
def Obligations.DropsAreNonFatal : Prop :=
  ∀ (i : Instr) (r : DropReason) (s t : State), exec i s = .next t → t.out = s.out ++ [.drop r] →
    t.devState = s.devState ∧ t.errCode = s.errCode ∧ t.link = s.link ∧ t.reader = s.reader ∧
    t.pendKind = s.pendKind ∧ t.pendCmd = s.pendCmd ∧ t.pendRecs = s.pendRecs

/-! ### Host events -/

/-- R92, R93, R94, R119 (decisions D16, D29 to D32, D39): the issue events; a refused issue changes nothing but the
returned status. That an accepted issue completes with its frame written assumes a sink that always accepts: the spec's
decision D26 and I9, log entry 14 (DEDUCED, unsafe against a sink that refuses or stalls). -/
def Obligations.IssueSetsTheSlotAndTransmits : Prop :=
  ∀ (cmd : Byte) (data : List Byte) (s : State),
    let issued : PendKind → State := fun shape =>
      if s.pendKind ≠ .none then { s with status := some .callInProgress }
      else if 253 < data.length then { s with status := some .dataTooLong }
      else if s.reader = .stopped then { s with status := some .closed }
      else
        { s with
          pendKind := shape
          pendCmd := cmd
          pendRecs := []
          out := s.out ++ [.tx (encodeRpc cmd data)]
          status := some .accepted }
    exec (.issueOne cmd data) s = .next (issued .one) ∧ exec (.issueMany cmd data) s = .next (issued .many)

/-- R95 (decisions D12, D38): TIMEOUT. -/
def Obligations.TimeoutFailsThePendingCall : Prop :=
  ∀ s : State,
    exec .timeout s = .next (
      if s.pendKind = .none then { s with errCode := 0xFE, out := s.out ++ [.errorEvt 0xFE] }
      else
        { s with
          errCode := 0xFE
          pendKind := .none
          pendRecs := []
          out := s.out ++ [.errorEvt 0xFE, .doneFail s.pendCmd .code 0xFE] })

/-- R96 (decisions D17, D38): ABANDON. -/
def Obligations.AbandonClearsTheSlotSilently : Prop :=
  ∀ s : State, exec .abandon s = .next { s with pendKind := .none, pendRecs := [] }

/-- R103 (decision D28): START acts only in IDLE. -/
def Obligations.StartSetsAnIdleReaderRunning : Prop :=
  ∀ s : State, exec .start s = .next (if s.reader = .idle then { s with reader := .running } else s)

/-- R104, R106 (decisions D14, D15, D25, D28): CLOSE terminates a running reader and does nothing otherwise. -/
def Obligations.CloseTerminatesARunningReader : Prop :=
  ∀ s : State,
    (s.reader ≠ .running → exec .close s = .next s) ∧
    (s.reader = .running →
      let fails : Prop := s.cfg.rejectOnDisconnect = true ∧ s.pendKind ≠ .none
      ∃ t : State, exec .close s = .next t ∧
        (fails → t =
          { s with
            fb := [], expLen := 0, sync := .unknown, reader := .stopped, link := .error
            pendKind := .none, pendRecs := []
            out := s.out ++ (if s.fb = [] then [] else [.drop .partialAtEnd]) ++
              [.doneFail s.pendCmd .disconnected 0x00, .disconnected] }) ∧
        (¬ fails → t =
          { s with
            fb := [], expLen := 0, sync := .unknown, reader := .stopped, link := .error
            out := s.out ++ (if s.fb = [] then [] else [.drop .partialAtEnd]) ++ [.disconnected] }))

/-- R105, R106 (decisions D13, D14, D15, D25): RX_END has a step only while the reader runs, and terminates it. -/
def Obligations.RxEndTerminatesARunningReader : Prop :=
  ∀ s : State,
    (s.reader ≠ .running → exec .rxEnd s = .fault .receiveWaits) ∧
    (s.reader = .running →
      let fails : Prop := s.cfg.rejectOnDisconnect = true ∧ s.pendKind ≠ .none
      ∃ t : State, exec .rxEnd s = .next t ∧
        (fails → t =
          { s with
            fb := [], expLen := 0, sync := .unknown, reader := .stopped, link := .error
            pendKind := .none, pendRecs := []
            out := s.out ++ (if s.fb = [] then [] else [.drop .partialAtEnd]) ++
              [.doneFail s.pendCmd .disconnected 0x00, .disconnected] }) ∧
        (¬ fails → t =
          { s with
            fb := [], expLen := 0, sync := .unknown, reader := .stopped, link := .error
            out := s.out ++ (if s.fb = [] then [] else [.drop .partialAtEnd]) ++ [.disconnected] }))

/-! ### Transmitted frames -/

/-- Each transmit row writes one frame of type 0x03 with the payload `[cmd, len(data)] ++ data` of R84, and nothing else
changes; beyond 253 data bytes, outside R84's precondition, it is refused by name. That a row is an instruction of its own,
and its refusal, are the model's reading, log entry 9 (DEDUCED); that the frame is written at once assumes a sink that
always accepts (decision D26, I9, log entry 14). -/
def Obligations.TransmitRowsWriteOneRequestFrame : Prop :=
  ∀ (data : List Byte) (s : State),
    let sent : Byte → State := fun cmd =>
      { s with out := s.out ++ [.tx (encodeFrame 0x03 ([cmd, BitVec.ofNat 8 data.length] ++ data))] }
    (data.length ≤ 253 →
      exec (.txSendWifiSettings data) s = .next (sent 0x01) ∧
      exec (.txRequestCurrentState data) s = .next (sent 0x02) ∧
      exec (.txRequestInfo data) s = .next (sent 0x03) ∧
      exec (.txRequestWifiNetworks data) s = .next (sent 0x04)) ∧
    (253 < data.length →
      exec (.txSendWifiSettings data) s = .refused .encodePrecondition ∧
      exec (.txRequestCurrentState data) s = .refused .encodePrecondition ∧
      exec (.txRequestInfo data) s = .refused .encodePrecondition ∧
      exec (.txRequestWifiNetworks data) s = .refused .encodePrecondition)

/-- An accepted issue of a command the table names sets the slot and runs that command's transmit row. The frame it writes
is that of R94 and R84; that a frame-tx row is an instruction of its own, which an issue runs, is the model's reading, log
entry 9 (DEDUCED). A sink that always accepts is assumed (decision D26, I9, log entry 14). Issues of commands the table
does not name are in IssueSetsTheSlotAndTransmits. -/
def Obligations.AcceptedIssueRunsItsTransmitRow : Prop :=
  ∀ (cmd : Byte) (data : List Byte) (s : State) (i : Instr),
    decode (.txFrame (encodeRpc cmd data)) = .ok i →
    s.pendKind = .none → s.reader ≠ .stopped → data.length ≤ 253 →
    exec (.issueOne cmd data) s =
      exec i { s with pendKind := .one, pendCmd := cmd, pendRecs := [], status := some .accepted } ∧
    exec (.issueMany cmd data) s =
      exec i { s with pendKind := .many, pendCmd := cmd, pendRecs := [], status := some .accepted }

/-! ### The codec -/

/-- R83, and the offsets of R45: an encoded frame has its fields at their offsets, 10 + N bytes, and the 8-bit sum of the
bytes before it as its last byte. -/
def Obligations.EncodedFrameHasItsFieldsAtTheirOffsets : Prop :=
  ∀ (t : Byte) (p : List Byte), p.length ≤ 255 →
    (encodeFrame t p).length = 10 + p.length ∧
    (encodeFrame t p).take 6 = magic ∧
    (encodeFrame t p)[6]? = some 0x01 ∧
    (encodeFrame t p)[7]? = some t ∧
    (encodeFrame t p)[8]?.map BitVec.toNat = some p.length ∧
    ((encodeFrame t p).drop 9).take p.length = p ∧
    (encodeFrame t p)[9 + p.length]?.map BitVec.toNat =
      some ((((encodeFrame t p).take (9 + p.length)).map BitVec.toNat).sum % 256)

/-- R74: the checksum is the byte sum as a natural number, reduced modulo 256; an 8-bit accumulator that discards carries
gives the same result, and over a frame's at most 264 bytes the sum is at most 67320. -/
def Obligations.ChecksumIsTheByteSumModulo256 : Prop :=
  ∀ xs : List Byte,
    (sum8 xs).toNat = (xs.map BitVec.toNat).sum % 256 ∧
    sum8 xs = xs.foldl (fun acc x => acc + x) 0x00 ∧
    (xs.length ≤ 264 → (xs.map BitVec.toNat).sum ≤ 67320)

/-- R85 (an inference the spec marks as its own): Decode of Encode gives back the packet, for every type and every payload
well formed for it. -/
def Obligations.DecodeOfEncodedFrameIsThePacket : Prop :=
  (∀ v : Byte, decodeFrame (encodeFrame 0x01 [v]) = .packet (.currentState v)) ∧
  (∀ e : Byte, decodeFrame (encodeFrame 0x02 [e]) = .packet (.errorState e)) ∧
  (∀ (cmd : Byte) (data : List Byte), data.length ≤ 253 →
    decodeFrame (encodeRpc cmd data) = .packet (.rpc cmd data)) ∧
  (∀ (cmd : Byte) (fs : Record), (∀ f ∈ fs, f.length ≤ 255) → (encodeFields fs).length ≤ 253 →
    decodeFrame (encodeFrame 0x04 (resultPayload cmd fs)) = .packet (.rpcResult cmd fs))

/-- R54, R80 (decision D8): the field loop accepts exactly the byte strings that are fields one after another, and yields
those fields. -/
def Obligations.ParsedFieldsTileTheirBytes : Prop :=
  ∀ (bytes : List Byte) (fs : Record),
    parseFields bytes = some fs ↔ (∀ f ∈ fs, f.length ≤ 255) ∧ encodeFields fs = bytes

/-- R86 (an inference the spec marks as its own): flipping one bit of the version, type, payload or checksum byte of a frame
with a right checksum makes Decode drop it with CHECKSUM_MISMATCH. -/
def Obligations.SingleBitFlipIsAChecksumMismatch : Prop :=
  ∀ (f : List Byte) (r : RawFrame) (k j : Nat),
    frameOperands f = some r → checksumOk f r = true →
    (k = 6 ∨ k = 7 ∨ 9 ≤ k) → k < f.length → j < 8 →
    decodeFrame (f.set k (f.getD k 0x00 ^^^ BitVec.twoPow 8 j)) = .drop .checksumMismatch

/-! ### Frames: what no instruction changes -/

/-- R29 (an inference the spec marks as its own): the write matrix; what each event leaves unchanged. No instruction changes
the parameters (R32), and none but the issues returns a status (R114). -/
def Obligations.InstructionsWriteOnlyTheirElements : Prop :=
  ∀ (i : Instr) (s t : State), exec i s = .next t →
    ((∀ b, i ≠ .rxByte b) → endsReader i = false → t.sync = s.sync ∧ t.fb = s.fb ∧ t.expLen = s.expLen) ∧
    (receives i = false → t.devState = s.devState) ∧
    (receives i = false → i ≠ .timeout → t.errCode = s.errCode) ∧
    (receives i = false → endsReader i = false → t.link = s.link) ∧
    (endsReader i = false → i ≠ .start → t.reader = s.reader) ∧
    (issues i = false → t.pendCmd = s.pendCmd) ∧
    (i = .start → t.pendKind = s.pendKind ∧ t.pendRecs = s.pendRecs) ∧
    (endsReader i = true → s.cfg.rejectOnDisconnect = false → t.pendKind = s.pendKind ∧ t.pendRecs = s.pendRecs) ∧
    t.cfg = s.cfg ∧ t.input = s.input ∧ (issues i = false → t.status = s.status)

/-- R10, R34: a write to the frame buffer keeps it within its storage, reads back as written, and leaves every byte outside
it as it was. -/
def Obligations.FrameBufferReadsBackWhatWasWritten : Prop :=
  ∀ (m m' : Memory) (addr : Nat) (v : List Byte), memWrite m addr v = some m' →
    Memory.wf m = true →
    Memory.wf m' = true ∧ memRead m' addr v.length = some v ∧
    ∀ k, k < addr ∨ addr + v.length ≤ k → memRead m' k 1 = memRead m k 1

/-- R10, R66: the only store into the frame buffer is RX_BYTE's, of its byte at offset `len(FB)`; every other byte reads as
before, unless the buffer was emptied. Instructions other than RX_BYTE and the reader's ends leave every byte as it was. -/
def Obligations.OnlyRxByteStoresIntoTheFrameBuffer : Prop :=
  (∀ (b : Byte) (s t : State), exec (.rxByte b) s = .next t →
    (s.sync = .nonproto → ∀ k, memRead t.fb k 1 = memRead s.fb k 1) ∧
    (s.sync ≠ .nonproto → t.fb ≠ [] →
      memRead t.fb s.fb.length 1 = some [b] ∧
      ∀ k, k ≠ s.fb.length → memRead t.fb k 1 = memRead s.fb k 1)) ∧
  (∀ (i : Instr) (s t : State), exec i s = .next t → (∀ b, i ≠ .rxByte b) → endsReader i = false →
    ∀ k, memRead t.fb k 1 = memRead s.fb k 1)

/-! ### Whole-machine rules -/

/-- R107 (decisions D11, D12): the transitions of LINK. It becomes CONNECTED only from CONNECTING, on an accepted state or
error packet, and always then; it becomes ERROR exactly on termination; ERROR is never left. -/
def Obligations.LinkMovesOnlyByItsTable : Prop :=
  ∀ (i : Instr) (s t : State), exec i s = .next t →
    (t.link = s.link ∨
      (s.link = .connecting ∧ t.link = .connected ∧ receives i = true ∧
        ∃ v evs, t.out = s.out ++ .stateEvt v :: evs ∨ t.out = s.out ++ .errorEvt v :: evs) ∨
      (t.link = .error ∧ endsReader i = true ∧ s.reader = .running)) ∧
    (s.link = .connecting → receives i = true →
      (∃ v evs, t.out = s.out ++ .stateEvt v :: evs ∨ t.out = s.out ++ .errorEvt v :: evs) → t.link = .connected) ∧
    (endsReader i = true → s.reader = .running → t.link = .error) ∧
    (s.link = .error → t.link = .error)

/-- R101 (decision D13): the reader states; reset leaves it IDLE; received bytes, frames and the end of the stream are taken
only while RUNNING, START enters it from IDLE, CLOSE and RX_END end it, and nothing leaves STOPPED. -/
def Obligations.ReaderMovesOnlyByItsTable : Prop :=
  State.reset.reader = .idle ∧
  ∀ (i : Instr) (s t : State), exec i s = .next t →
    (receives i = true ∨ i = .rxEnd → s.reader = .running) ∧
    (s.reader = .idle → t.reader = if i = .start then .running else .idle) ∧
    (s.reader = .running → t.reader = if endsReader i = true then .stopped else .running) ∧
    (s.reader = .stopped → t.reader = .stopped)

/-- R97, R98, R99 (inferences the spec marks as their own): the pending slot. It is filled only by an accepted issue; it keeps
its call or is emptied; every completion names the command of the one call pending at the time and ends it; at most one
completion is emitted; only ABANDON empties the slot without one. -/
def Obligations.CompletionsNameTheOnePendingCall : Prop :=
  ∀ (i : Instr) (s t : State), exec i s = .next t →
    ∃ evs, t.out = s.out ++ evs ∧
      (s.pendKind = .none → t.pendKind ≠ .none → issues i = true ∧ t.status = some .accepted) ∧
      (s.pendKind ≠ .none → t.pendKind = s.pendKind ∨ t.pendKind = .none) ∧
      (∀ e ∈ evs, isCompletion e = true →
        completionCmd e = some s.pendCmd ∧ s.pendKind ≠ .none ∧ t.pendKind = .none) ∧
      (evs.filter isCompletion).length ≤ 1 ∧
      (s.pendKind ≠ .none → t.pendKind = .none → i ≠ .abandon → ∃ e ∈ evs, isCompletion e = true)

/-- R133: a call left pending when the reader has stopped stays pending: nothing but TIMEOUT and ABANDON ends it, and every
issue is refused with CALL_IN_PROGRESS. -/
def Obligations.StrandedCallStaysPending : Prop :=
  ∀ (i : Instr) (s t : State), s.reader = .stopped → s.pendKind ≠ .none → exec i s = .next t →
    i ≠ .timeout → i ≠ .abandon →
    t.pendKind = s.pendKind ∧ t.pendCmd = s.pendCmd ∧ t.pendRecs = s.pendRecs ∧
    (issues i = true → t = { s with status := some .callInProgress })

/-- R20 (decision D32), R135: ERRCODE changes only by an accepted ERROR_STATE frame, which notifies the new code, or by
TIMEOUT, which sets 0xFE. -/
def Obligations.ErrCodeChangesOnlyByErrorFrameOrTimeout : Prop :=
  ∀ (i : Instr) (s t : State), exec i s = .next t → t.errCode ≠ s.errCode →
    (i = .timeout ∧ t.errCode = 0xFE) ∨
    (receives i = true ∧ ∃ evs, t.out = s.out ++ .errorEvt t.errCode :: evs)

/-- R19, R27: DEVSTATE changes only by an accepted CURRENT_STATE frame, which notifies the new value, and DEVSTATE_VALID is
never cleared. -/
def Obligations.DevStateChangesOnlyByStateFrame : Prop :=
  ∀ (i : Instr) (s t : State), exec i s = .next t →
    (t.devState = s.devState ∨
      (receives i = true ∧ ∃ v, t.devState = some v ∧ t.out = s.out ++ [.stateEvt v])) ∧
    (devStateValid s = true → devStateValid t = true)
end

