-- ==== Sys2Proof/Laws/State.lean ====
section
/-! SUPPORT. One lemma per field per state operation, so that no later proof unfolds a record update; and what the
conditional operations do to each field. -/

namespace Sys2Proof.Machine

/-! ### emit -/

@[simp] theorem emit_sync (ev : OutEvent) (s : State) : (emit ev s).sync = s.sync := rfl
@[simp] theorem emit_fb (ev : OutEvent) (s : State) : (emit ev s).fb = s.fb := rfl
@[simp] theorem emit_expLen (ev : OutEvent) (s : State) : (emit ev s).expLen = s.expLen := rfl
@[simp] theorem emit_devState (ev : OutEvent) (s : State) : (emit ev s).devState = s.devState := rfl
@[simp] theorem emit_errCode (ev : OutEvent) (s : State) : (emit ev s).errCode = s.errCode := rfl
@[simp] theorem emit_link (ev : OutEvent) (s : State) : (emit ev s).link = s.link := rfl
@[simp] theorem emit_reader (ev : OutEvent) (s : State) : (emit ev s).reader = s.reader := rfl
@[simp] theorem emit_pendKind (ev : OutEvent) (s : State) : (emit ev s).pendKind = s.pendKind := rfl
@[simp] theorem emit_pendCmd (ev : OutEvent) (s : State) : (emit ev s).pendCmd = s.pendCmd := rfl
@[simp] theorem emit_pendRecs (ev : OutEvent) (s : State) : (emit ev s).pendRecs = s.pendRecs := rfl
@[simp] theorem emit_cfg (ev : OutEvent) (s : State) : (emit ev s).cfg = s.cfg := rfl
@[simp] theorem emit_input (ev : OutEvent) (s : State) : (emit ev s).input = s.input := rfl
@[simp] theorem emit_out (ev : OutEvent) (s : State) : (emit ev s).out = s.out ++ [ev] := rfl
@[simp] theorem emit_status (ev : OutEvent) (s : State) : (emit ev s).status = s.status := rfl

/-! ### raiseDrop -/

@[simp] theorem raiseDrop_sync (r : DropReason) (s : State) : (raiseDrop r s).sync = s.sync := rfl
@[simp] theorem raiseDrop_fb (r : DropReason) (s : State) : (raiseDrop r s).fb = s.fb := rfl
@[simp] theorem raiseDrop_expLen (r : DropReason) (s : State) : (raiseDrop r s).expLen = s.expLen := rfl
@[simp] theorem raiseDrop_devState (r : DropReason) (s : State) : (raiseDrop r s).devState = s.devState := rfl
@[simp] theorem raiseDrop_errCode (r : DropReason) (s : State) : (raiseDrop r s).errCode = s.errCode := rfl
@[simp] theorem raiseDrop_link (r : DropReason) (s : State) : (raiseDrop r s).link = s.link := rfl
@[simp] theorem raiseDrop_reader (r : DropReason) (s : State) : (raiseDrop r s).reader = s.reader := rfl
@[simp] theorem raiseDrop_pendKind (r : DropReason) (s : State) : (raiseDrop r s).pendKind = s.pendKind := rfl
@[simp] theorem raiseDrop_pendCmd (r : DropReason) (s : State) : (raiseDrop r s).pendCmd = s.pendCmd := rfl
@[simp] theorem raiseDrop_pendRecs (r : DropReason) (s : State) : (raiseDrop r s).pendRecs = s.pendRecs := rfl
@[simp] theorem raiseDrop_cfg (r : DropReason) (s : State) : (raiseDrop r s).cfg = s.cfg := rfl
@[simp] theorem raiseDrop_input (r : DropReason) (s : State) : (raiseDrop r s).input = s.input := rfl
@[simp] theorem raiseDrop_out (r : DropReason) (s : State) : (raiseDrop r s).out = s.out ++ [.drop r] := rfl
@[simp] theorem raiseDrop_status (r : DropReason) (s : State) : (raiseDrop r s).status = s.status := rfl

/-! ### txWrite -/

@[simp] theorem txWrite_sync (bytes : List Byte) (s : State) : (txWrite bytes s).sync = s.sync := rfl
@[simp] theorem txWrite_fb (bytes : List Byte) (s : State) : (txWrite bytes s).fb = s.fb := rfl
@[simp] theorem txWrite_expLen (bytes : List Byte) (s : State) : (txWrite bytes s).expLen = s.expLen := rfl
@[simp] theorem txWrite_devState (bytes : List Byte) (s : State) : (txWrite bytes s).devState = s.devState := rfl
@[simp] theorem txWrite_errCode (bytes : List Byte) (s : State) : (txWrite bytes s).errCode = s.errCode := rfl
@[simp] theorem txWrite_link (bytes : List Byte) (s : State) : (txWrite bytes s).link = s.link := rfl
@[simp] theorem txWrite_reader (bytes : List Byte) (s : State) : (txWrite bytes s).reader = s.reader := rfl
@[simp] theorem txWrite_pendKind (bytes : List Byte) (s : State) : (txWrite bytes s).pendKind = s.pendKind := rfl
@[simp] theorem txWrite_pendCmd (bytes : List Byte) (s : State) : (txWrite bytes s).pendCmd = s.pendCmd := rfl
@[simp] theorem txWrite_pendRecs (bytes : List Byte) (s : State) : (txWrite bytes s).pendRecs = s.pendRecs := rfl
@[simp] theorem txWrite_cfg (bytes : List Byte) (s : State) : (txWrite bytes s).cfg = s.cfg := rfl
@[simp] theorem txWrite_input (bytes : List Byte) (s : State) : (txWrite bytes s).input = s.input := rfl
@[simp] theorem txWrite_out (bytes : List Byte) (s : State) : (txWrite bytes s).out = s.out ++ [.tx bytes] := rfl
@[simp] theorem txWrite_status (bytes : List Byte) (s : State) : (txWrite bytes s).status = s.status := rfl

/-! ### returnStatus -/

@[simp] theorem returnStatus_sync (st : Status) (s : State) : (returnStatus st s).sync = s.sync := rfl
@[simp] theorem returnStatus_fb (st : Status) (s : State) : (returnStatus st s).fb = s.fb := rfl
@[simp] theorem returnStatus_expLen (st : Status) (s : State) : (returnStatus st s).expLen = s.expLen := rfl
@[simp] theorem returnStatus_devState (st : Status) (s : State) : (returnStatus st s).devState = s.devState := rfl
@[simp] theorem returnStatus_errCode (st : Status) (s : State) : (returnStatus st s).errCode = s.errCode := rfl
@[simp] theorem returnStatus_link (st : Status) (s : State) : (returnStatus st s).link = s.link := rfl
@[simp] theorem returnStatus_reader (st : Status) (s : State) : (returnStatus st s).reader = s.reader := rfl
@[simp] theorem returnStatus_pendKind (st : Status) (s : State) : (returnStatus st s).pendKind = s.pendKind := rfl
@[simp] theorem returnStatus_pendCmd (st : Status) (s : State) : (returnStatus st s).pendCmd = s.pendCmd := rfl
@[simp] theorem returnStatus_pendRecs (st : Status) (s : State) : (returnStatus st s).pendRecs = s.pendRecs := rfl
@[simp] theorem returnStatus_cfg (st : Status) (s : State) : (returnStatus st s).cfg = s.cfg := rfl
@[simp] theorem returnStatus_input (st : Status) (s : State) : (returnStatus st s).input = s.input := rfl
@[simp] theorem returnStatus_out (st : Status) (s : State) : (returnStatus st s).out = s.out := rfl
@[simp] theorem returnStatus_status (st : Status) (s : State) : (returnStatus st s).status = some st := rfl

/-! ### framerReset -/

@[simp] theorem framerReset_sync (s : State) : (framerReset s).sync = .unknown := rfl
@[simp] theorem framerReset_fb (s : State) : (framerReset s).fb = [] := rfl
@[simp] theorem framerReset_expLen (s : State) : (framerReset s).expLen = 0 := rfl
@[simp] theorem framerReset_devState (s : State) : (framerReset s).devState = s.devState := rfl
@[simp] theorem framerReset_errCode (s : State) : (framerReset s).errCode = s.errCode := rfl
@[simp] theorem framerReset_link (s : State) : (framerReset s).link = s.link := rfl
@[simp] theorem framerReset_reader (s : State) : (framerReset s).reader = s.reader := rfl
@[simp] theorem framerReset_pendKind (s : State) : (framerReset s).pendKind = s.pendKind := rfl
@[simp] theorem framerReset_pendCmd (s : State) : (framerReset s).pendCmd = s.pendCmd := rfl
@[simp] theorem framerReset_pendRecs (s : State) : (framerReset s).pendRecs = s.pendRecs := rfl
@[simp] theorem framerReset_cfg (s : State) : (framerReset s).cfg = s.cfg := rfl
@[simp] theorem framerReset_input (s : State) : (framerReset s).input = s.input := rfl
@[simp] theorem framerReset_out (s : State) : (framerReset s).out = s.out := rfl
@[simp] theorem framerReset_status (s : State) : (framerReset s).status = s.status := rfl

/-! ### clearPending -/

@[simp] theorem clearPending_sync (s : State) : (clearPending s).sync = s.sync := rfl
@[simp] theorem clearPending_fb (s : State) : (clearPending s).fb = s.fb := rfl
@[simp] theorem clearPending_expLen (s : State) : (clearPending s).expLen = s.expLen := rfl
@[simp] theorem clearPending_devState (s : State) : (clearPending s).devState = s.devState := rfl
@[simp] theorem clearPending_errCode (s : State) : (clearPending s).errCode = s.errCode := rfl
@[simp] theorem clearPending_link (s : State) : (clearPending s).link = s.link := rfl
@[simp] theorem clearPending_reader (s : State) : (clearPending s).reader = s.reader := rfl
@[simp] theorem clearPending_pendKind (s : State) : (clearPending s).pendKind = .none := rfl
@[simp] theorem clearPending_pendCmd (s : State) : (clearPending s).pendCmd = s.pendCmd := rfl
@[simp] theorem clearPending_pendRecs (s : State) : (clearPending s).pendRecs = [] := rfl
@[simp] theorem clearPending_cfg (s : State) : (clearPending s).cfg = s.cfg := rfl
@[simp] theorem clearPending_input (s : State) : (clearPending s).input = s.input := rfl
@[simp] theorem clearPending_out (s : State) : (clearPending s).out = s.out := rfl
@[simp] theorem clearPending_status (s : State) : (clearPending s).status = s.status := rfl

/-! ### takeInput -/

@[simp] theorem takeInput_sync (rest : List InputWord) (s : State) : (takeInput rest s).sync = s.sync := rfl
@[simp] theorem takeInput_fb (rest : List InputWord) (s : State) : (takeInput rest s).fb = s.fb := rfl
@[simp] theorem takeInput_expLen (rest : List InputWord) (s : State) : (takeInput rest s).expLen = s.expLen := rfl
@[simp] theorem takeInput_devState (rest : List InputWord) (s : State) : (takeInput rest s).devState = s.devState := rfl
@[simp] theorem takeInput_errCode (rest : List InputWord) (s : State) : (takeInput rest s).errCode = s.errCode := rfl
@[simp] theorem takeInput_link (rest : List InputWord) (s : State) : (takeInput rest s).link = s.link := rfl
@[simp] theorem takeInput_reader (rest : List InputWord) (s : State) : (takeInput rest s).reader = s.reader := rfl
@[simp] theorem takeInput_pendKind (rest : List InputWord) (s : State) : (takeInput rest s).pendKind = s.pendKind := rfl
@[simp] theorem takeInput_pendCmd (rest : List InputWord) (s : State) : (takeInput rest s).pendCmd = s.pendCmd := rfl
@[simp] theorem takeInput_pendRecs (rest : List InputWord) (s : State) : (takeInput rest s).pendRecs = s.pendRecs := rfl
@[simp] theorem takeInput_cfg (rest : List InputWord) (s : State) : (takeInput rest s).cfg = s.cfg := rfl
@[simp] theorem takeInput_input (rest : List InputWord) (s : State) : (takeInput rest s).input = rest := rfl
@[simp] theorem takeInput_out (rest : List InputWord) (s : State) : (takeInput rest s).out = s.out := rfl
@[simp] theorem takeInput_status (rest : List InputWord) (s : State) : (takeInput rest s).status = none := rfl

/-! ### linkObserved: only the link moves, and only from CONNECTING -/

@[simp] theorem linkObserved_sync (s : State) : (linkObserved s).sync = s.sync := by
  unfold linkObserved; split <;> simp_all

@[simp] theorem linkObserved_fb (s : State) : (linkObserved s).fb = s.fb := by
  unfold linkObserved; split <;> simp_all

@[simp] theorem linkObserved_expLen (s : State) : (linkObserved s).expLen = s.expLen := by
  unfold linkObserved; split <;> simp_all

@[simp] theorem linkObserved_devState (s : State) : (linkObserved s).devState = s.devState := by
  unfold linkObserved; split <;> simp_all

@[simp] theorem linkObserved_errCode (s : State) : (linkObserved s).errCode = s.errCode := by
  unfold linkObserved; split <;> simp_all

@[simp] theorem linkObserved_link (s : State) : (linkObserved s).link = if s.link = .connecting then .connected else s.link := by
  unfold linkObserved; split <;> simp_all

@[simp] theorem linkObserved_reader (s : State) : (linkObserved s).reader = s.reader := by
  unfold linkObserved; split <;> simp_all

@[simp] theorem linkObserved_pendKind (s : State) : (linkObserved s).pendKind = s.pendKind := by
  unfold linkObserved; split <;> simp_all

@[simp] theorem linkObserved_pendCmd (s : State) : (linkObserved s).pendCmd = s.pendCmd := by
  unfold linkObserved; split <;> simp_all

@[simp] theorem linkObserved_pendRecs (s : State) : (linkObserved s).pendRecs = s.pendRecs := by
  unfold linkObserved; split <;> simp_all

@[simp] theorem linkObserved_cfg (s : State) : (linkObserved s).cfg = s.cfg := by
  unfold linkObserved; split <;> simp_all

@[simp] theorem linkObserved_input (s : State) : (linkObserved s).input = s.input := by
  unfold linkObserved; split <;> simp_all

@[simp] theorem linkObserved_out (s : State) : (linkObserved s).out = s.out := by
  unfold linkObserved; split <;> simp_all

@[simp] theorem linkObserved_status (s : State) : (linkObserved s).status = s.status := by
  unfold linkObserved; split <;> simp_all

/-! ### failPending: the slot and the outputs, and only with a call pending -/

@[simp] theorem failPending_sync (kind : FailKind) (code : Byte) (s : State) :
    (failPending kind code s).sync = s.sync := by
  unfold failPending; split <;> simp_all

@[simp] theorem failPending_fb (kind : FailKind) (code : Byte) (s : State) :
    (failPending kind code s).fb = s.fb := by
  unfold failPending; split <;> simp_all

@[simp] theorem failPending_expLen (kind : FailKind) (code : Byte) (s : State) :
    (failPending kind code s).expLen = s.expLen := by
  unfold failPending; split <;> simp_all

@[simp] theorem failPending_devState (kind : FailKind) (code : Byte) (s : State) :
    (failPending kind code s).devState = s.devState := by
  unfold failPending; split <;> simp_all

@[simp] theorem failPending_errCode (kind : FailKind) (code : Byte) (s : State) :
    (failPending kind code s).errCode = s.errCode := by
  unfold failPending; split <;> simp_all

@[simp] theorem failPending_link (kind : FailKind) (code : Byte) (s : State) :
    (failPending kind code s).link = s.link := by
  unfold failPending; split <;> simp_all

@[simp] theorem failPending_reader (kind : FailKind) (code : Byte) (s : State) :
    (failPending kind code s).reader = s.reader := by
  unfold failPending; split <;> simp_all

@[simp] theorem failPending_pendKind (kind : FailKind) (code : Byte) (s : State) :
    (failPending kind code s).pendKind = .none := by
  unfold failPending; split <;> simp_all

@[simp] theorem failPending_pendCmd (kind : FailKind) (code : Byte) (s : State) :
    (failPending kind code s).pendCmd = s.pendCmd := by
  unfold failPending; split <;> simp_all

@[simp] theorem failPending_pendRecs (kind : FailKind) (code : Byte) (s : State) :
    (failPending kind code s).pendRecs = if s.pendKind = .none then s.pendRecs else [] := by
  unfold failPending; split <;> simp_all

@[simp] theorem failPending_cfg (kind : FailKind) (code : Byte) (s : State) :
    (failPending kind code s).cfg = s.cfg := by
  unfold failPending; split <;> simp_all

@[simp] theorem failPending_input (kind : FailKind) (code : Byte) (s : State) :
    (failPending kind code s).input = s.input := by
  unfold failPending; split <;> simp_all

@[simp] theorem failPending_out (kind : FailKind) (code : Byte) (s : State) :
    (failPending kind code s).out = if s.pendKind = .none then s.out else s.out ++ [.doneFail s.pendCmd kind code] := by
  unfold failPending; split <;> simp_all

@[simp] theorem failPending_status (kind : FailKind) (code : Byte) (s : State) :
    (failPending kind code s).status = s.status := by
  unfold failPending; split <;> simp_all

/-! ### terminate -/

/-- The whole effect of a termination, as one record (R106). -/
theorem terminate_eq (s : State) :
    terminate s =
      { s with
        sync := .unknown, fb := [], expLen := 0, reader := .stopped, link := .error
        pendKind := if s.cfg.rejectOnDisconnect then .none else s.pendKind
        pendRecs := if s.cfg.rejectOnDisconnect ∧ s.pendKind ≠ .none then [] else s.pendRecs
        out := s.out ++ (if s.fb = [] then [] else [.drop .partialAtEnd]) ++
          (if s.cfg.rejectOnDisconnect ∧ s.pendKind ≠ .none then [.doneFail s.pendCmd .disconnected 0x00] else []) ++
          [.disconnected] } := by
  by_cases hf : s.fb = [] <;> by_cases hr : s.cfg.rejectOnDisconnect = true <;>
    by_cases hp : s.pendKind = .none <;>
    simp [terminate, failPending, raiseDrop, emit, framerReset, clearPending, hf, hr, hp]

@[simp] theorem terminate_sync (s : State) :
    (terminate s).sync = .unknown := by
  rw [terminate_eq]

@[simp] theorem terminate_fb (s : State) :
    (terminate s).fb = [] := by
  rw [terminate_eq]

@[simp] theorem terminate_expLen (s : State) :
    (terminate s).expLen = 0 := by
  rw [terminate_eq]

@[simp] theorem terminate_devState (s : State) :
    (terminate s).devState = s.devState := by
  rw [terminate_eq]

@[simp] theorem terminate_errCode (s : State) :
    (terminate s).errCode = s.errCode := by
  rw [terminate_eq]

@[simp] theorem terminate_link (s : State) :
    (terminate s).link = .error := by
  rw [terminate_eq]

@[simp] theorem terminate_reader (s : State) :
    (terminate s).reader = .stopped := by
  rw [terminate_eq]

@[simp] theorem terminate_pendKind (s : State) :
    (terminate s).pendKind = if s.cfg.rejectOnDisconnect then .none else s.pendKind := by
  rw [terminate_eq]

@[simp] theorem terminate_pendCmd (s : State) :
    (terminate s).pendCmd = s.pendCmd := by
  rw [terminate_eq]

@[simp] theorem terminate_pendRecs (s : State) :
    (terminate s).pendRecs = if s.cfg.rejectOnDisconnect ∧ s.pendKind ≠ .none then [] else s.pendRecs := by
  rw [terminate_eq]

@[simp] theorem terminate_cfg (s : State) :
    (terminate s).cfg = s.cfg := by
  rw [terminate_eq]

@[simp] theorem terminate_input (s : State) :
    (terminate s).input = s.input := by
  rw [terminate_eq]

@[simp] theorem terminate_out (s : State) :
    (terminate s).out = s.out ++ (if s.fb = [] then [] else [.drop .partialAtEnd]) ++
      (if s.cfg.rejectOnDisconnect ∧ s.pendKind ≠ .none then [.doneFail s.pendCmd .disconnected 0x00] else []) ++
      [.disconnected] := by
  rw [terminate_eq]

@[simp] theorem terminate_status (s : State) :
    (terminate s).status = s.status := by
  rw [terminate_eq]

end Sys2Proof.Machine
end

