-- ==== Sys2Proof/Laws/Memory.lean ====
section
/-! SUPPORT. The frame buffer: what its two operations do (spec/00_scope.md R10, spec/20_memory.md R34). -/

namespace Sys2Proof.Machine

/-- What a write that is taken requires and gives. -/
theorem memWrite_some_iff {m m' : Memory} {addr : Nat} {v : List Byte} :
    memWrite m addr v = some m' ↔
      (addr ≤ m.length ∧ addr + v.length ≤ fbCap) ∧ m' = m.take addr ++ v ++ m.drop (addr + v.length) := by
  unfold memWrite
  split <;> simp_all [eq_comm]

/-- Appending one byte below the capacity. -/
@[simp] theorem memWrite_append_byte (m : Memory) (b : Byte) (h : m.length < fbCap) :
    memWrite m m.length [b] = some (m ++ [b]) := by
  simp [memWrite_some_iff]; omega

/-- A full buffer takes no further byte. -/
theorem memWrite_full (m : Memory) (b : Byte) (h : fbCap ≤ m.length) : memWrite m m.length [b] = none := by
  unfold memWrite
  rw [if_neg]
  simp; omega

/-- A write keeps the buffer within its storage. -/
theorem memWrite_wf {m m' : Memory} {addr : Nat} {v : List Byte}
    (hm : Memory.wf m = true) (h : memWrite m addr v = some m') : Memory.wf m' = true := by
  obtain ⟨⟨h1, h2⟩, rfl⟩ := memWrite_some_iff.1 h
  simp only [Memory.wf, decide_eq_true_eq, List.length_append, List.length_take, List.length_drop] at *
  omega

/-- A read that is answered lies within the buffer and gives the bytes there. -/
theorem memRead_some_iff {m : Memory} {addr n : Nat} {v : List Byte} :
    memRead m addr n = some v ↔ addr + n ≤ m.length ∧ v = (m.drop addr).take n := by
  unfold memRead
  split <;> simp_all [eq_comm]

/-- Reading one byte is indexing. -/
theorem memRead_one (m : Memory) (k : Nat) : memRead m k 1 = m[k]?.map fun b => [b] := by
  unfold memRead
  split
  · rename_i h
    rw [List.getElem?_eq_getElem (by omega)]
    simp [List.take_one, List.head?_drop, List.getElem?_eq_getElem (show k < m.length by omega)]
  · rw [List.getElem?_eq_none (by omega)]; rfl

/-- The cells of a buffer stand at rising offsets: the sequence is in canonical form as it is. -/
theorem Memory.cells_rising (m : Memory) : (Memory.cells m).Pairwise fun a b => a.1 < b.1 := by
  have h : (Memory.cells m).map Prod.fst = List.range m.length := by
    simp [Memory.cells, Function.comp_def, List.zipIdx_map_snd, List.range_eq_range']
  have := List.pairwise_lt_range (n := m.length)
  rw [← h, List.pairwise_map] at this
  exact this

/-- A new instance's buffer is empty. -/
theorem reset_memory_wf : Memory.wf State.reset.fb = true := by decide

end Sys2Proof.Machine
end

