-- ==== Sys2Proof/Laws/Frame.lean ====
section
/-! SUPPORT. Frames: the fields of a built frame, and what the decoders read from it (spec/30_encoding.md R45, R64). -/

namespace Sys2Proof

theorem magic_length : magic.length = 6 := rfl

@[simp] theorem frameBody_length (t : Byte) (p : List Byte) : (frameBody t p).length = 9 + p.length := by
  simp [frameBody, magic]; omega

@[simp] theorem frameWith_length (t : Byte) (p : List Byte) (c : Byte) : (frameWith t p c).length = 10 + p.length := by
  simp [frameWith]; omega

theorem frameWith_take_magic (t : Byte) (p : List Byte) (c : Byte) : (frameWith t p c).take 6 = magic := by
  simp [frameWith, frameBody, magic]

/-- The bytes before the checksum are the body. -/
theorem frameWith_take_body (t : Byte) (p : List Byte) (c : Byte) :
    (frameWith t p c).take (9 + p.length) = frameBody t p := by
  rw [frameWith, ← frameBody_length t p, List.take_left']
  rfl

/-- Exactly when bytes have the fields of a frame. -/
theorem frameOperands_some_iff {f : List Byte} {r : RawFrame} :
    frameOperands f = some r ↔
      f.drop 6 = r.version :: r.type :: BitVec.ofNat 8 r.payload.length :: (r.payload ++ [r.checksum]) ∧
        r.payload.length ≤ 255 := by
  obtain ⟨v, t, p, c⟩ := r
  unfold frameOperands
  constructor
  · intro h
    split at h
    · rename_i v' t' n' rest hd
      split at h
      · rename_i c' hc
        simp only [Option.some.injEq, RawFrame.mk.injEq] at h
        obtain ⟨rfl, rfl, rfl, rfl⟩ := h
        have hl : rest.length = n'.toNat + 1 := by
          have := congrArg List.length hc
          simp at this; have := n'.isLt; omega
        have hn : (rest.take n'.toNat).length = n'.toNat := by simp [hl]
        refine ⟨?_, by rw [hn]; have := n'.isLt; omega⟩
        rw [hd, hn]
        simp only [BitVec.ofNat_toNat, BitVec.setWidth_eq]
        rw [← hc, List.take_append_drop]
      · cases h
    · cases h
  · rintro ⟨h, hl⟩
    simp only at h hl
    rw [h]
    have : (BitVec.ofNat 8 p.length).toNat = p.length := by simp; omega
    simp [this]

/-- The fields of a built frame. -/
theorem frameOperands_frameWith (t : Byte) (p : List Byte) (c : Byte) (h : p.length ≤ 255) :
    frameOperands (frameWith t p c) = some ⟨version, t, p, c⟩ := by
  rw [frameOperands_some_iff]
  exact ⟨by simp [frameWith, frameBody, magic], h⟩

/-- A received frame is read as a row exactly when it is that row's frame. -/
theorem decodeRxFrame_ok_iff {f : List Byte} {i : Instr} :
    decodeRxFrame f = .ok i ↔
      ∃ t p c, f = frameWith t p c ∧ p.length ≤ 255 ∧ rxRow t p c = .ok i := by
  unfold decodeRxFrame
  constructor
  · intro h
    split at h
    · rename_i hm
      split at h
      · rename_i r hr
        split at h
        · rename_i hv
          obtain ⟨hd, hl⟩ := frameOperands_some_iff.1 hr
          refine ⟨r.type, r.payload, r.checksum, ?_, hl, h⟩
          rw [← List.take_append_drop 6 f, hm, hd, hv]
          simp [frameWith, frameBody]
        · cases h
      · cases h
    · cases h
  · rintro ⟨t, p, c, rfl, hl, h⟩
    rw [if_pos (frameWith_take_magic t p c), frameOperands_frameWith t p c hl]
    simpa using h

end Sys2Proof

namespace Sys2Proof.Machine

/-- The checksum check of a built frame. -/
theorem checksumOk_frameWith (t : Byte) (p : List Byte) (c : Byte) (v : Byte) :
    checksumOk (frameWith t p c) ⟨v, t, p, c⟩ = (c == sum8 (frameBody t p)) := by
  simp [checksumOk, frameWith_take_body]

/-- Decode of a built frame of the supported version. -/
theorem decodeFrame_frameWith (t : Byte) (p : List Byte) (c : Byte) (h : p.length ≤ 255) :
    decodeFrame (frameWith t p c) =
      if c = sum8 (frameBody t p) then decodePayload t p else .drop .checksumMismatch := by
  unfold decodeFrame
  rw [frameOperands_frameWith t p c h]
  simp only [checksumOk_frameWith]
  by_cases hc : c = sum8 (frameBody t p) <;> simp [hc]

/-- Decode of an encoded frame: its checksum is right. -/
theorem decodeFrame_encodeFrame (t : Byte) (p : List Byte) (h : p.length ≤ 255) :
    decodeFrame (encodeFrame t p) = decodePayload t p := by
  simp [encodeFrame, decodeFrame_frameWith _ _ _ h]

end Sys2Proof.Machine
end

