-- ==== Sys2Proof/Laws/Ops.lean ====
section
/-! SUPPORT. What each shared operation can do, said once: the inversion lemmas that the provers cite instead of
unfolding. -/

namespace Sys2Proof.Machine

/-- A delivered frame that is a frame at all is dropped or dispatched (R67). -/
theorem deliver_cases {f : List Byte} {s t : State} (h : deliver f s = .next t) :
    (∃ r, decodeFrame f = .drop r ∧ t = raiseDrop r s) ∨ (∃ p, decodeFrame f = .packet p ∧ t = dispatch p s) := by
  unfold deliver at h
  split at h <;> simp_all

/-- A received event has a step only while the reader runs (R65). -/
theorem whenRunning_next {s t : State} {k : Host.Outcome State Fault Refusal} :
    whenRunning s k = .next t ↔ s.reader = .running ∧ k = .next t := by
  unfold whenRunning
  split <;> simp_all

/-- A received frame's next state (R65, R67). -/
theorem receiveFrame_next {ty : Byte} {p : List Byte} {c : Byte} {s t : State} :
    receiveFrame ty p c s = .next t ↔ s.reader = .running ∧ deliver (frameWith ty p c) s = .next t := by
  unfold receiveFrame
  exact whenRunning_next

/-- A transmitted request's next state (R84). -/
theorem transmitRequest_next {cmd : Byte} {data : List Byte} {s t : State} :
    transmitRequest cmd data s = .next t ↔ data.length ≤ maxData ∧ t = txWrite (encodeRpc cmd data) s := by
  unfold transmitRequest
  split <;> simp_all [eq_comm]

/-- An issue is refused with a status and nothing else, or accepted (R94). -/
theorem issueCommon_cases (shape : Shape) (cmd : Byte) (data : List Byte) (s : State) :
    (∃ st, st ≠ .accepted ∧ issueCommon shape cmd data s = returnStatus st s) ∨
      (s.pendKind = .none ∧ data.length ≤ maxData ∧ s.reader ≠ .stopped ∧
        issueCommon shape cmd data s =
          { s with
            pendKind := kindOf shape, pendCmd := cmd, pendRecs := []
            out := s.out ++ [.tx (encodeRpc cmd data)], status := some .accepted }) := by
  unfold issueCommon
  split
  · exact .inl ⟨.callInProgress, by simp, rfl⟩
  · split
    · exact .inl ⟨.dataTooLong, by simp, rfl⟩
    · split
      · exact .inl ⟨.closed, by simp, rfl⟩
      · refine .inr ⟨?_, by omega, ‹_›, rfl⟩
        simpa [callPending] using ‹¬ callPending s = true›

/-- What a result can do to the slot (R91). -/
theorem onResult_cases (c : Byte) (fields : Record) (s : State) :
    (s.pendKind = .none ∧ onResult c fields s = raiseDrop .resultNoPending s) ∨
    (s.pendKind ≠ .none ∧ c ≠ s.pendCmd ∧ onResult c fields s = raiseDrop .resultCmdMismatch s) ∨
    (s.pendKind = .one ∧ c = s.pendCmd ∧
      onResult c fields s = { s with pendKind := .none, out := s.out ++ [.doneOne c fields] }) ∨
    (s.pendKind = .many ∧ c = s.pendCmd ∧ fields = [] ∧
      onResult c fields s =
        { s with pendKind := .none, pendRecs := [], out := s.out ++ [.doneMany c s.pendRecs] }) ∨
    (s.pendKind = .many ∧ c = s.pendCmd ∧ fields ≠ [] ∧ s.cfg.maxRecords = some s.pendRecs.length ∧
      onResult c fields s =
        { s with pendKind := .none, pendRecs := [], out := s.out ++ [.doneFail c .overflow 0x00] }) ∨
    (s.pendKind = .many ∧ c = s.pendCmd ∧ fields ≠ [] ∧ s.cfg.maxRecords ≠ some s.pendRecs.length ∧
      onResult c fields s = { s with pendRecs := s.pendRecs ++ [fields] }) := by
  unfold onResult recordsFull
  cases hk : s.pendKind with
  | none => simp
  | one => by_cases hc : c = s.pendCmd <;> simp [hc, emit]
  | many =>
    by_cases hc : c = s.pendCmd
    · by_cases hf : fields = []
      · simp [hc, hf, emit, clearPending]
      · by_cases hm : s.cfg.maxRecords = some s.pendRecs.length <;> simp [hc, hf, hm, emit, clearPending]
    · simp [hc]

/-- The next states of the framer's byte step (R66). -/
theorem execRxByte_cases {b : Byte} {s t : State} (h : exec (.rxByte b) s = .next t) :
    s.reader = .running ∧
    ((s.sync = .nonproto ∧ b = newline ∧ t = { s with sync := .unknown }) ∨
     (s.sync = .nonproto ∧ b ≠ newline ∧ t = s) ∨
     (s.sync = .proto ∧ s.fb.length < fbCap ∧ s.fb.length + 1 = s.expLen ∧
        deliver (s.fb ++ [b]) (framerReset s) = .next t) ∨
     (s.sync = .proto ∧ s.fb.length < fbCap ∧ s.fb.length + 1 ≠ s.expLen ∧ t = { s with fb := s.fb ++ [b] }) ∨
     (s.sync = .unknown ∧ b = newline ∧ s.fb = [] ∧ t = s) ∨
     (s.sync = .unknown ∧ b = newline ∧ s.fb ≠ [] ∧ t = { s with fb := [], out := s.out ++ [.drop .shortLine] }) ∨
     (s.sync = .unknown ∧ b ≠ newline ∧ s.fb.length < fbCap ∧ s.fb.length + 1 ≠ 9 ∧
        t = { s with fb := s.fb ++ [b] }) ∨
     (s.sync = .unknown ∧ b ≠ newline ∧ s.fb.length + 1 = 9 ∧ (s.fb ++ [b]).take 6 = magic ∧
        t = { s with fb := s.fb ++ [b], sync := .proto, expLen := 10 + b.toNat }) ∨
     (s.sync = .unknown ∧ b ≠ newline ∧ s.fb.length + 1 = 9 ∧ (s.fb ++ [b]).take 6 ≠ magic ∧
        t = { s with fb := [], sync := .nonproto, out := s.out ++ [.drop .nonProtocol] })) := by
  simp only [exec, execRxByte] at h
  obtain ⟨hr, h⟩ := whenRunning_next.1 h
  refine ⟨hr, ?_⟩
  cases hs : s.sync with
  | nonproto =>
    simp only [hs, rxInLine, Host.Outcome.next.injEq] at h
    by_cases hb : b = newline <;> simp_all
  | proto =>
    simp only [hs, rxInFrame] at h
    by_cases hl : s.fb.length < fbCap
    · rw [memWrite_append_byte _ _ hl] at h
      simp only [List.length_append, List.length_singleton] at h
      by_cases he : s.fb.length + 1 = s.expLen
      · rw [if_pos he] at h
        exact .inr (.inr (.inl ⟨rfl, hl, he, h⟩))
      · rw [if_neg he] at h
        simp only [Host.Outcome.next.injEq] at h
        simp [hl, he, h.symm]
    · rw [memWrite_full _ _ (by omega)] at h
      cases h
  | unknown =>
    simp only [hs, rxUnknown] at h
    by_cases hb : b = newline
    · by_cases hf : s.fb = []
      · simp only [hb, hf, if_true, ne_eq, not_true_eq_false, if_false, Host.Outcome.next.injEq] at h
        have : t = s := by rw [← h]; cases s; simp_all
        simp [hb, hf, this]
      · simp [hb, hf, raiseDrop, emit] at h
        simp [hb, hf, hs, h.symm]
    · rw [if_neg hb] at h
      by_cases hl : s.fb.length < fbCap
      · rw [memWrite_append_byte _ _ hl] at h
        simp only [headerDecision, hdrLen, List.length_append, List.length_singleton, Host.Outcome.next.injEq] at h
        by_cases h9 : s.fb.length + 1 = 9
        · rw [if_pos h9] at h
          by_cases hm : (s.fb ++ [b]).take 6 = magic
          · have h8 : (s.fb ++ [b])[8]? = some b := by
              rw [List.getElem?_append_right (by omega)]; simp [show s.fb.length = 8 by omega]
            rw [if_pos hm] at h
            simp only [List.getD_eq_getElem?_getD, h8, Option.getD_some] at h
            simp [hb, h9, hm, h.symm]
          · rw [if_neg hm] at h
            simp only [raiseDrop, emit] at h
            simp [hb, h9, hm, h.symm]
        · rw [if_neg h9] at h
          simp [hb, h9, hl, h.symm]
      · rw [memWrite_full _ _ (by omega)] at h
        cases h

/-- What a step that has a next state did: it took the first enabled event and ran it (R11, R65). -/
theorem step_next {s t : State} (h : step s = .next t) :
    ∃ w rest i, nextInput s.reader s.input = some (w, rest) ∧ decode (.event w) = .ok i ∧
      exec i (takeInput rest s) = .next t := by
  unfold step at h
  split at h
  · rename_i w rest hn
    split at h
    · rename_i i hi
      exact ⟨w, rest, i, hn, hi, h⟩
    · cases h
  · cases h

/-- While the reader runs, the first event is the next one. -/
@[simp] theorem nextInput_running (w : InputWord) (rest : List InputWord) :
    nextInput .running (w :: rest) = some (w, rest) := by simp [nextInput]

/-- A host event at the head is the next one. -/
theorem nextInput_host (r : Reader) (w : InputWord) (rest : List InputWord) (h : isReceive w = false) :
    nextInput r (w :: rest) = some (w, rest) := by simp [nextInput, h]

/-- While the reader is not running a receive event at the head is passed over and kept. -/
theorem nextInput_waits {r : Reader} (hr : r ≠ .running) (w : InputWord) (rest : List InputWord)
    (h : isReceive w = true) :
    nextInput r (w :: rest) = (nextInput r rest).map fun p => (p.1, w :: p.2) := by
  simp only [nextInput, hr, h, false_or, Bool.true_eq_false, if_false]
  cases nextInput r rest <;> rfl

end Sys2Proof.Machine
end

