-- ==== Sys2Proof/Laws/Exec.lean ====
section
/-! SUPPORT. What one instruction can do, said once: every next state of `deliver` and of `exec` as a record update, with
the conditions it needs. Lemmas about all instructions go by cases on `exec_next`. -/

namespace Sys2Proof.Machine

/-- LINK after an accepted state or error packet (R89, R90). -/
abbrev observedLink (s : State) : Link := if s.link = .connecting then .connected else s.link

theorem onState_eq (v : Byte) (s : State) :
    onState v s = { s with devState := some v, link := observedLink s, out := s.out ++ [.stateEvt v] } := by
  simp only [onState, emit, linkObserved, observedLink]
  split <;> simp_all

theorem onError_eq (e : Byte) (s : State) :
    onError e s =
      if e ≠ errNone ∧ s.pendKind ≠ .none then
        { s with
          errCode := e, link := observedLink s, pendKind := .none, pendRecs := []
          out := s.out ++ [.errorEvt e, .doneFail s.pendCmd .code e] }
      else { s with errCode := e, link := observedLink s, out := s.out ++ [.errorEvt e] } := by
  obtain ⟨sync, fb, el, ds, ec, li, rd, pk, pc, pr, cf, inp, ou, st⟩ := s
  by_cases h0 : e = errNone <;> cases li <;> cases pk <;>
    simp [h0, onError, observedLink, emit, linkObserved, failPending, clearPending]

/-- The next states of a delivered frame (R67, R75 to R80, R88 to R91, R112). -/
inductive Delivered (s t : State) : Prop
  | drop (r : DropReason) (ht : t = { s with out := s.out ++ [.drop r] })
  | state (v : Byte) (ht : t = { s with devState := some v, link := observedLink s, out := s.out ++ [.stateEvt v] })
  | error (e : Byte) (ht : t = { s with errCode := e, link := observedLink s, out := s.out ++ [.errorEvt e] })
  | errorFails (e : Byte) (he : e ≠ errNone) (hp : s.pendKind ≠ .none)
      (ht : t = { s with
        errCode := e, link := observedLink s, pendKind := .none, pendRecs := []
        out := s.out ++ [.errorEvt e, .doneFail s.pendCmd .code e] })
  | doneOne (fs : Record) (hp : s.pendKind = .one)
      (ht : t = { s with pendKind := .none, out := s.out ++ [.doneOne s.pendCmd fs] })
  | doneMany (hp : s.pendKind = .many)
      (ht : t = { s with pendKind := .none, pendRecs := [], out := s.out ++ [.doneMany s.pendCmd s.pendRecs] })
  | overflow (hp : s.pendKind = .many) (hm : s.cfg.maxRecords = some s.pendRecs.length)
      (ht : t = { s with
        pendKind := .none, pendRecs := [], out := s.out ++ [.doneFail s.pendCmd .overflow 0x00] })
  | record (fs : Record) (hp : s.pendKind = .many) (hf : fs ≠ []) (hm : s.cfg.maxRecords ≠ some s.pendRecs.length)
      (ht : t = { s with pendRecs := s.pendRecs ++ [fs] })

/-- A delivered frame's next state is one of them. -/
theorem deliver_next {f : List Byte} {s t : State} (h : deliver f s = .next t) : Delivered s t := by
  rcases deliver_cases h with ⟨r, _, rfl⟩ | ⟨p, _, rfl⟩
  · exact .drop r rfl
  · cases p with
    | currentState v => exact .state v (onState_eq v s)
    | errorState e =>
      simp only [dispatch, onError_eq]
      split
      · exact .errorFails e (And.left ‹_›) (And.right ‹_›) rfl
      · exact .error e rfl
    | rpc c d => exact .drop .unexpectedType rfl
    | rpcResult c fs =>
      simp only [dispatch]
      rcases onResult_cases c fs s with ⟨_, h⟩ | ⟨_, _, h⟩ | ⟨hp, rfl, h⟩ | ⟨hp, rfl, _, h⟩ | ⟨hp, rfl, _, hm, h⟩ |
        ⟨hp, _, hf, hm, h⟩ <;> rw [h]
      · exact .drop _ rfl
      · exact .drop _ rfl
      · exact .doneOne fs hp rfl
      · exact .doneMany hp rfl
      · exact .overflow hp hm rfl
      · exact .record fs hp hf hm rfl

/-- The next states of an instruction, grouped by what it does (R29). -/
inductive Stepped (i : Instr) (s t : State) : Prop
  | lineEnds (hi : i = .rxByte newline) (hr : s.reader = .running) (hs : s.sync = .nonproto)
      (ht : t = { s with sync := .unknown })
  | ignored (b : Byte) (hi : i = .rxByte b) (hr : s.reader = .running)
      (hs : s.sync = .nonproto ∨ (s.sync = .unknown ∧ s.fb = [])) (ht : t = s)
  | appended (b : Byte) (hi : i = .rxByte b) (hr : s.reader = .running) (hl : s.fb.length < fbCap)
      (hs : (s.sync = .proto ∧ s.fb.length + 1 ≠ s.expLen) ∨ (s.sync = .unknown ∧ b ≠ newline ∧ s.fb.length + 1 ≠ 9))
      (ht : t = { s with fb := s.fb ++ [b] })
  | header (b : Byte) (hi : i = .rxByte b) (hr : s.reader = .running) (hs : s.sync = .unknown) (hb : b ≠ newline)
      (hl : s.fb.length + 1 = 9) (hm : (s.fb ++ [b]).take 6 = magic)
      (ht : t = { s with fb := s.fb ++ [b], sync := .proto, expLen := 10 + b.toNat })
  | shortLine (hi : i = .rxByte newline) (hr : s.reader = .running) (hs : s.sync = .unknown) (hf : s.fb ≠ [])
      (ht : t = { s with fb := [], out := s.out ++ [.drop .shortLine] })
  | nonProtocol (b : Byte) (hi : i = .rxByte b) (hr : s.reader = .running) (hs : s.sync = .unknown)
      (hl : s.fb.length + 1 = 9) (ht : t = { s with fb := [], sync := .nonproto, out := s.out ++ [.drop .nonProtocol] })
  | completed (b : Byte) (hi : i = .rxByte b) (hr : s.reader = .running) (hs : s.sync = .proto)
      (hl : s.fb.length + 1 = s.expLen) (hd : deliver (s.fb ++ [b]) (framerReset s) = .next t)
  | delivered (f : List Byte) (hi : receives i = true) (hn : ∀ b, i ≠ .rxByte b) (hr : s.reader = .running)
      (hd : deliver f s = .next t)
  | started (hi : i = .start) (hr : s.reader = .idle) (ht : t = { s with reader := .running })
  | noEffect (hi : (i = .start ∧ s.reader ≠ .idle) ∨ (i = .close ∧ s.reader ≠ .running)) (ht : t = s)
  | terminated (hi : endsReader i = true) (hr : s.reader = .running) (ht : t = terminate s)
  | refused (st : Status) (hi : issues i = true) (hst : st ≠ .accepted) (hc : s.pendKind ≠ .none → st = .callInProgress)
      (ht : t = { s with status := some st })
  | accepted (shape : Shape) (cmd : Byte) (data : List Byte) (hi : issues i = true) (hp : s.pendKind = .none)
      (hl : data.length ≤ maxData) (hr : s.reader ≠ .stopped)
      (ht : t = { s with
        pendKind := kindOf shape, pendCmd := cmd, pendRecs := []
        out := s.out ++ [.tx (encodeRpc cmd data)], status := some .accepted })
  | timedOut (hi : i = .timeout)
      (ht : t = failPending .code errTimeout (emit (.errorEvt errTimeout) { s with errCode := errTimeout }))
  | abandoned (hi : i = .abandon) (ht : t = clearPending s)
  | sent (cmd : Byte) (data : List Byte)
      (hi : receives i = false ∧ endsReader i = false ∧ issues i = false ∧ i ≠ .start ∧ i ≠ .timeout ∧ i ≠ .abandon)
      (hl : data.length ≤ maxData) (ht : t = { s with out := s.out ++ [.tx (encodeRpc cmd data)] })

/-- An issue's next state. -/
theorem issueCommon_stepped {i : Instr} (hi : issues i = true) (shape : Shape) (cmd : Byte) (data : List Byte)
    (s : State) : Stepped i s (issueCommon shape cmd data s) := by
  by_cases hp : s.pendKind = .none
  · rcases issueCommon_cases shape cmd data s with ⟨st, hst, h⟩ | ⟨_, hl, hr, h⟩ <;> rw [h]
    · exact .refused st hi hst (fun hn => absurd hp hn) rfl
    · exact .accepted shape cmd data hi hp hl hr rfl
  · exact .refused .callInProgress hi (by simp) (fun _ => rfl) (by simp [issueCommon, callPending, hp, returnStatus])

/-- An instruction's next state is one of them. -/
theorem exec_next {i : Instr} {s t : State} (h : exec i s = .next t) : Stepped i s t := by
  cases i with
  | rxByte b =>
    obtain ⟨hr, hc⟩ := execRxByte_cases h
    rcases hc with ⟨hs, rfl, ht⟩ | ⟨hs, _, ht⟩ | ⟨hs, _, hl, ht⟩ | ⟨hs, hl, he, ht⟩ | ⟨hs, _, hf, ht⟩ | ⟨hs, rfl, hf, ht⟩ |
      ⟨hs, hb, hl, h9, ht⟩ | ⟨hs, hb, h9, hm, ht⟩ | ⟨hs, _, h9, _, ht⟩
    · exact .lineEnds rfl hr hs ht
    · exact .ignored b rfl hr (.inl hs) ht
    · exact .completed b rfl hr hs hl ht
    · exact .appended b rfl hr hl (.inl ⟨hs, he⟩) ht
    · exact .ignored b rfl hr (.inr ⟨hs, hf⟩) ht
    · exact .shortLine rfl hr hs hf ht
    · exact .appended b rfl hr hl (.inr ⟨hs, hb, h9⟩) ht
    · exact .header b rfl hr hs hb h9 hm ht
    · exact .nonProtocol b rfl hr hs h9 ht
  | rxEnd =>
    obtain ⟨hr, h⟩ := whenRunning_next.1 h
    cases h
    exact .terminated rfl hr rfl
  | start =>
    simp only [exec, execStart, Host.Outcome.next.injEq] at h
    split at h
    · exact .started rfl ‹_› h.symm
    · exact .noEffect (.inl ⟨rfl, ‹_›⟩) h.symm
  | close =>
    simp only [exec, execClose, Host.Outcome.next.injEq] at h
    split at h
    · exact .terminated rfl ‹_› h.symm
    · exact .noEffect (.inr ⟨rfl, ‹_›⟩) h.symm
  | issueOne cmd data => cases h; exact issueCommon_stepped rfl .one cmd data s
  | issueMany cmd data => cases h; exact issueCommon_stepped rfl .many cmd data s
  | timeout => cases h; exact .timedOut rfl rfl
  | abandon => cases h; exact .abandoned rfl rfl
  | currentState p c | errorState p c | rpc p c | rpcResult p c =>
    obtain ⟨hr, h⟩ := receiveFrame_next.1 h
    exact .delivered _ rfl (by simp) hr h
  | txSendWifiSettings d | txRequestCurrentState d | txRequestInfo d | txRequestWifiNetworks d =>
    obtain ⟨hl, h⟩ := transmitRequest_next.1 h
    exact .sent _ _ (by simp [receives, endsReader, issues]) hl h

end Sys2Proof.Machine
end

