-- ==== Sys2Proof/Laws/PerInstr.lean ====
section
/-! SUPPORT. Facts about every instruction as syntax, one lemma per constructor. Family MatchesRow: the encoding of an
instruction matches its row of spec/opcode_table.json under the row's mask (spec/30_encoding.md R64). -/

namespace Sys2Proof.Laws.MatchesRow

/-- The instruction's encoding matches its row of the opcode table. -/
def Statement (i : Instr) : Prop := matchesRow (rowOf i) (encode i) = true

/-- A frame's first eight bytes are the row's, whatever its payload and checksum. -/
theorem frame_matches (ty : Byte) (p : List Byte) (c : Byte) :
    matchesUnder [0x49, 0x4D, 0x50, 0x52, 0x4F, 0x56, 0x01, ty] (List.replicate 8 0xFF) (frameWith ty p c) = true := by
  have : ∀ x : Byte, x &&& 255#8 = x := by decide
  simp [matchesUnder, List.replicate, frameWith, frameBody, magic, version, this]

/-- A request's first ten bytes are the row's, its length byte masked out. -/
theorem request_matches (cmd : Byte) (data : List Byte) :
    matchesUnder [0x49, 0x4D, 0x50, 0x52, 0x4F, 0x56, 0x01, 0x03, 0x00, cmd]
      (List.replicate 8 0xFF ++ [0x00, 0xFF]) (encodeRpc cmd data) = true := by
  have : ∀ x : Byte, x &&& 255#8 = x := by decide
  simp [matchesUnder, List.replicate, encodeRpc, encodeFrame, rpcPayload, frameWith, frameBody, magic, version, typeRpc,
    this]

theorem rxByte (b : Byte) : Statement (.rxByte b) := by
  simp [Statement, matchesRow, rowOf, encode, rowBytes, matchesUnder]

theorem rxEnd : Statement (.rxEnd) := by
  simp [Statement, matchesRow, rowOf, encode, rowBytes, matchesUnder]

theorem start : Statement (.start) := by
  simp [Statement, matchesRow, rowOf, encode, rowBytes, matchesUnder]

theorem close : Statement (.close) := by
  simp [Statement, matchesRow, rowOf, encode, rowBytes, matchesUnder]

theorem issueOne (cmd : Byte) (data : List Byte) : Statement (.issueOne cmd data) := by
  simp [Statement, matchesRow, rowOf, encode, rowBytes, matchesUnder]

theorem issueMany (cmd : Byte) (data : List Byte) : Statement (.issueMany cmd data) := by
  simp [Statement, matchesRow, rowOf, encode, rowBytes, matchesUnder]

theorem timeout : Statement (.timeout) := by
  simp [Statement, matchesRow, rowOf, encode, rowBytes, matchesUnder]

theorem abandon : Statement (.abandon) := by
  simp [Statement, matchesRow, rowOf, encode, rowBytes, matchesUnder]

theorem currentState (p : List Byte) (c : Byte) : Statement (.currentState p c) := frame_matches _ p c

theorem errorState (p : List Byte) (c : Byte) : Statement (.errorState p c) := frame_matches _ p c

theorem rpc (p : List Byte) (c : Byte) : Statement (.rpc p c) := frame_matches _ p c

theorem rpcResult (p : List Byte) (c : Byte) : Statement (.rpcResult p c) := frame_matches _ p c

theorem txSendWifiSettings (data : List Byte) : Statement (.txSendWifiSettings data) := request_matches _ data

theorem txRequestCurrentState (data : List Byte) : Statement (.txRequestCurrentState data) := request_matches _ data

theorem txRequestInfo (data : List Byte) : Statement (.txRequestInfo data) := request_matches _ data

theorem txRequestWifiNetworks (data : List Byte) : Statement (.txRequestWifiNetworks data) := request_matches _ data

end Sys2Proof.Laws.MatchesRow
end

