-- ==== Sys2Proof/Tests/Slice0.lean ====
section
/-! SUPPORT. The model's own tests. Expected values come from the worked examples and vectors of spec/ (their names V<n>
are those of spec/95_test_vectors.md, whose frames were computed from the rules). Part 1: well-formedness. Part 2: decoding
and encoding. Part 3: single steps. Part 4: one witness for the hypotheses of each obligation that has any. -/

namespace Sys2Proof.Tests

open Sys2Proof.Machine

/-! ### Part 1: ill-formed terms are refused -/

theorem test_wellFormed_refuses_payload_256 :
    wellFormed (.currentState (List.replicate 256 0x00) 0x00) = false ∧
    wellFormed (.errorState (List.replicate 256 0x00) 0x00) = false ∧
    wellFormed (.rpc (List.replicate 256 0x00) 0x00) = false ∧
    wellFormed (.rpcResult (List.replicate 256 0x00) 0x00) = false := by decide +kernel

theorem test_wellFormed_refuses_data_254 :
    wellFormed (.txSendWifiSettings (List.replicate 254 0x00)) = false ∧
    wellFormed (.txRequestCurrentState (List.replicate 254 0x00)) = false ∧
    wellFormed (.txRequestInfo (List.replicate 254 0x00)) = false ∧
    wellFormed (.txRequestWifiNetworks (List.replicate 254 0x00)) = false := by decide +kernel

theorem test_wellFormed_takes_the_longest :
    wellFormed (.rpcResult (List.replicate 255 0x00) 0x00) = true ∧
    wellFormed (.txSendWifiSettings (List.replicate 253 0x00)) = true ∧
    wellFormed (.issueOne 0x01 (List.replicate 254 0x00)) = true := by decide +kernel

/-! ### Part 2: words written out from the spec's encodings -/

/-- "IMPROV" (R45, R7). -/
def improv : List Byte := [0x49, 0x4D, 0x50, 0x52, 0x4F, 0x56]

/-- V1, V26a: CURRENT_STATE(0x02). -/
def v1 : List Byte := improv ++ [0x01, 0x01, 0x01, 0x02, 0xE2]
/-- V5: a frame of version 0x02 with a right checksum. -/
def v5 : List Byte := improv ++ [0x02, 0x01, 0x01, 0x02, 0xE3]
/-- V7: CURRENT_STATE(0x02) with a wrong checksum. -/
def v7 : List Byte := improv ++ [0x01, 0x01, 0x01, 0x02, 0xE3]
/-- V10: type 0x05. -/
def v10 : List Byte := improv ++ [0x01, 0x05, 0x00, 0xE3]
/-- V10a: type 0x00. -/
def v10a : List Byte := improv ++ [0x01, 0x00, 0x01, 0x07, 0xE6]
/-- V11: CURRENT_STATE with two payload bytes. -/
def v11 : List Byte := improv ++ [0x01, 0x01, 0x02, 0x02, 0x02, 0xE5]
/-- V12, V20: RPC(0x03, []). -/
def v20 : List Byte := improv ++ [0x01, 0x03, 0x02, 0x03, 0x00, 0xE6]
/-- V13a: RPC with one payload byte. -/
def v13a : List Byte := improv ++ [0x01, 0x03, 0x01, 0x03, 0xE5]
/-- V14c: RPC_RESULT(0x03, ["", ""]). -/
def v14c : List Byte := improv ++ [0x01, 0x04, 0x04, 0x03, 0x02, 0x00, 0x00, 0xEB]
/-- V14b: RPC_RESULT whose field runs past its total length. -/
def v14b : List Byte := improv ++ [0x01, 0x04, 0x04, 0x03, 0x02, 0x05, 0x41, 0x31]
/-- V27d: ERROR_STATE(0x03). -/
def v27d : List Byte := improv ++ [0x01, 0x02, 0x01, 0x03, 0xE4]
/-- V27a: ERROR_STATE(0x00). -/
def v27a : List Byte := improv ++ [0x01, 0x02, 0x01, 0x00, 0xE1]
/-- V28b: RPC_RESULT(0x04, []), the sentinel. -/
def v28b : List Byte := improv ++ [0x01, 0x04, 0x02, 0x04, 0x00, 0xE8]
/-- V34: RPC_RESULT(0x03, ["x"]). -/
def v34 : List Byte := improv ++ [0x01, 0x04, 0x04, 0x03, 0x02, 0x01, 0x78, 0x64]
/-- V39, its second frame: RPC_RESULT(0x04, ["B", "2", "NO"]). -/
def v39 : List Byte := improv ++ [0x01, 0x04, 0x09, 0x04, 0x07, 0x01, 0x42, 0x01, 0x32, 0x02, 0x4E, 0x4F, 0x0B]

/-- R58, R59: every event code with its operands. -/
theorem test_decode_events :
    decode (.event ⟨0x0, [0x49]⟩) = .ok (.rxByte 0x49) ∧
    decode (.event ⟨0x1, []⟩) = .ok .rxEnd ∧
    decode (.event ⟨0x2, []⟩) = .ok .start ∧
    decode (.event ⟨0x3, []⟩) = .ok .close ∧
    decode (.event ⟨0x4, [0x03]⟩) = .ok (.issueOne 0x03 []) ∧
    decode (.event ⟨0x5, [0x04, 0xAA, 0xBB]⟩) = .ok (.issueMany 0x04 [0xAA, 0xBB]) ∧
    decode (.event ⟨0x6, []⟩) = .ok .timeout ∧
    decode (.event ⟨0x7, []⟩) = .ok .abandon := by decide

/-- R60, R59: reserved codes, and operands that are not the event's, are refused by name. -/
theorem test_decode_refuses_events :
    decode (.event ⟨0x8, []⟩) = .error .reservedCode ∧
    decode (.event ⟨0xF, [0x00]⟩) = .error .reservedCode ∧
    decode (.event ⟨0x0, []⟩) = .error .operandCount ∧
    decode (.event ⟨0x0, [0x01, 0x02]⟩) = .error .operandCount ∧
    decode (.event ⟨0x4, []⟩) = .error .operandCount ∧
    decode (.event ⟨0x7, [0x00]⟩) = .error .operandCount := by decide

/-- V1, V27d, V12, V28b: the four received rows. -/
theorem test_decode_rx_frames :
    decode (.rxFrame v1) = .ok (.currentState [0x02] 0xE2) ∧
    decode (.rxFrame v27d) = .ok (.errorState [0x03] 0xE4) ∧
    decode (.rxFrame v20) = .ok (.rpc [0x03, 0x00] 0xE6) ∧
    decode (.rxFrame v28b) = .ok (.rpcResult [0x04, 0x00] 0xE8) := by decide

/-- V5, V10, and frames cut short or without the magic: no row. -/
theorem test_decode_refuses_rx_frames :
    decode (.rxFrame v5) = .error .noRow ∧
    decode (.rxFrame v10) = .error .noRow ∧
    decode (.rxFrame (v1.take 10)) = .error .frameLength ∧
    decode (.rxFrame (v1 ++ [0x00])) = .error .frameLength ∧
    decode (.rxFrame (0x48 :: v1.drop 1)) = .error .noMagic := by decide

/-- V24, V22, V20, V23, V21: the four transmitted rows. -/
theorem test_decode_tx_frames :
    decode (.txFrame (improv ++ [0x01, 0x03, 0x02, 0x01, 0x00, 0xE4])) = .ok (.txSendWifiSettings []) ∧
    decode (.txFrame (improv ++ [0x01, 0x03, 0x02, 0x02, 0x00, 0xE5])) = .ok (.txRequestCurrentState []) ∧
    decode (.txFrame v20) = .ok (.txRequestInfo []) ∧
    decode (.txFrame (improv ++ [0x01, 0x03, 0x02, 0x04, 0x00, 0xE7])) = .ok (.txRequestWifiNetworks []) ∧
    decode (.txFrame (improv ++ [0x01, 0x03, 0x0E, 0x01, 0x0C, 0x04, 0x48, 0x6F, 0x6D, 0x65, 0x06, 0x73, 0x65, 0x63,
        0x72, 0x65, 0x74, 0x15])) =
      .ok (.txSendWifiSettings [0x04, 0x48, 0x6F, 0x6D, 0x65, 0x06, 0x73, 0x65, 0x63, 0x72, 0x65, 0x74]) := by decide

/-- A transmitted frame with a wrong checksum, a wrong data length, another type, or an unnamed command (V47). -/
theorem test_decode_refuses_tx_frames :
    decode (.txFrame (improv ++ [0x01, 0x03, 0x02, 0x03, 0x00, 0xE7])) = .error .badChecksum ∧
    decode (.txFrame (improv ++ [0x01, 0x03, 0x02, 0x03, 0x01, 0xE7])) = .error .badDataLength ∧
    decode (.txFrame v1) = .error .noRow ∧
    decode (.txFrame (improv ++ [0x01, 0x03, 0x03, 0x7F, 0x01, 0xAA, 0x0E])) = .error .noRow := by decide

/-- V20 to V24, V26a, V27d, V28b, V29: Encode and EncodeRpc. -/
theorem test_encode_frames :
    encodeRpc 0x03 [] = v20 ∧
    encodeRpc 0x01 [0x04, 0x48, 0x6F, 0x6D, 0x65, 0x06, 0x73, 0x65, 0x63, 0x72, 0x65, 0x74] =
      improv ++ [0x01, 0x03, 0x0E, 0x01, 0x0C, 0x04, 0x48, 0x6F, 0x6D, 0x65, 0x06, 0x73, 0x65, 0x63, 0x72, 0x65, 0x74,
        0x15] ∧
    encodeFrame 0x01 [0x02] = v1 ∧
    encodeFrame 0x02 [0x03] = v27d ∧
    encodeFrame 0x04 (resultPayload 0x04 []) = v28b ∧
    encodeFrame 0x05 [] = v10 := by decide

/-- V25: the longest transmitted frame ends in 0xDE. -/
theorem test_encode_longest :
    (encodeRpc 0x01 (List.replicate 253 0x00)).length = 265 ∧
    (encodeRpc 0x01 (List.replicate 253 0x00)).take 11 = improv ++ [0x01, 0x03, 0xFF, 0x01, 0xFD] ∧
    (encodeRpc 0x01 (List.replicate 253 0x00)).getLast? = some 0xDE := by decide +kernel

/-- The sixteen rows of the opcode table, in the order of Instr. -/
def rows : List Row :=
  [rowOf (.rxByte 0), rowOf .rxEnd, rowOf .start, rowOf .close, rowOf (.issueOne 0 []), rowOf (.issueMany 0 []),
    rowOf .timeout, rowOf .abandon] ++
  [rowOf (.currentState [] 0), rowOf (.errorState [] 0), rowOf (.rpc [] 0), rowOf (.rpcResult [] 0),
    rowOf (.txSendWifiSettings []), rowOf (.txRequestCurrentState []), rowOf (.txRequestInfo []),
    rowOf (.txRequestWifiNetworks [])]

/-- Two rows of one format that some bytes match both: each byte agrees where both masks look. -/
def overlap (a b : Row) : Bool :=
  a.format == b.format &&
    ((a.pattern.zip a.mask).zip (b.pattern.zip b.mask)).all fun p => p.1.1 &&& p.2.2 &&& p.1.2 == p.2.1 &&& p.1.2 &&& p.2.2

/-- No two rows of the opcode table overlap. -/
theorem test_rows_do_not_overlap : rows.Pairwise fun a b => overlap a b = false := by decide

/-- R64: the table's numbers: event codes, and frame numbers with byte 0 most significant. -/
theorem test_decodeTableWord :
    decodeTableWord 8 0x00 = some (.rxByte 0x00) ∧
    decodeTableWord 8 0x05 = some (.issueMany 0x00 []) ∧
    decodeTableWord 8 0x07 = some .abandon ∧
    decodeTableWord 8 0x08 = none ∧
    decodeTableWord 64 0x494D50524F560104 = some (.rpcResult [] 0x00) ∧
    decodeTableWord 80 0x494D50524F5601030001 = some (.txSendWifiSettings []) ∧
    decodeTableWord 80 0x494D50524F5601030004 = some (.txRequestWifiNetworks []) ∧
    decodeTableWord 80 0x494D50524F5601030005 = none := by decide

/-- R62, R63: `rxstate`, `rxresult` and `rxline` spell one RX_BYTE per byte (P1 of the vectors). -/
theorem test_programEvents :
    programEvents [.start, .rxstate stateReady] = ⟨0x2, []⟩ :: rxEvents v1 ∧
    programEvents [.rxresult 0x04 []] = rxEvents v28b ∧
    programEvents [.rxline [0x6F, 0x6B], .issueOne 0x03 []] =
      rxEvents [0x6F, 0x6B, 0x0A] ++ [⟨0x4, [0x03]⟩] := by decide

/-- R15, R61, R111, R113, R114: the codes. -/
theorem test_codes :
    [Sync.unknown, .proto, .nonproto].map syncCode = [0, 1, 2] ∧
    [Link.connecting, .connected, .error].map linkCode = [0, 1, 2] ∧
    [Reader.idle, .running, .stopped].map readerCode = [0, 1, 2] ∧
    [PendKind.none, .one, .many].map pendKindCode = [0, 1, 2] ∧
    [DropReason.shortLine, .nonProtocol, .checksumMismatch, .unsupportedVersion, .unknownType, .unexpectedType,
      .badLength, .malformedRpc, .malformedResult, .resultNoPending, .resultCmdMismatch, .partialAtEnd].map dropCode =
      [1, 2, 3, 4, 5, 6, 7, 8, 9, 10, 11, 12] ∧
    [FailKind.code, .disconnected, .overflow].map failCode = [1, 2, 3] ∧
    [Status.accepted, .callInProgress, .dataTooLong, .closed].map statusCode = [0, 1, 2, 3] ∧
    [OutEvent.tx [], .drop .shortLine, .stateEvt 0, .errorEvt 0, .doneOne 0 [], .doneMany 0 [], .doneFail 0 .code 0,
      .disconnected].map outKindCode = [0, 1, 2, 3, 4, 5, 6, 7] := by decide

/-! ### Part 3: single steps -/

/-- Reset, with `P_MAX_RECORDS` unbounded and `P_REJECT_ON_DISCONNECT` false: the vectors' default. -/
def base : State := State.create ⟨none, false⟩
/-- S0 of the vectors. -/
def s0 : State := { base with reader := .running }
/-- S1 of the vectors (its outputs left out). -/
def s1 : State := { s0 with devState := some 0x02, link := .connected }
/-- S2(shape, cmd) of the vectors. -/
def s2 (k : PendKind) (cmd : Byte) : State := { s1 with pendKind := k, pendCmd := cmd }
/-- A multi-response call that has received one record, with room for `n`. -/
def sMany (n : Option Nat) : State :=
  { s2 .many 0x04 with pendRecs := [[[0x41], [0x31], [0x4E, 0x4F]]], cfg := ⟨n, true⟩ }
/-- After termination with a call left pending. -/
def sStopped : State := { s2 .one 0x03 with reader := .stopped, link := .error }

/-- A state whose framer holds all but the last byte of a frame. -/
def holding (f : List Byte) (s : State) : State :=
  { s with sync := .proto, fb := f.dropLast, expLen := f.length }
/-- The step of the last byte of a frame. -/
def lastByte (f : List Byte) (s : State) : Option State := next? (exec (.rxByte (f.getLastD 0x00)) (holding f s))
/-- What a step emitted, from a state that had emitted nothing. -/
def emits (t : Option State) : Option (List OutEvent) := t.map State.out

/-- V1: the last byte of a frame delivers it in its own step, the framer already reset. -/
theorem test_rxByte_completes_a_frame :
    lastByte v1 s0 = some { s1 with out := [.stateEvt 0x02] } := by decide

/-- V5, V7, V10, V10a, V11, V12, V13a, V14b: one drop each, in the order of R117. -/
theorem test_rxByte_drops :
    [v5, v7, v10, v10a, v11, v20, v13a, v14b].map (fun f => emits (lastByte f s0)) =
      [.unsupportedVersion, .checksumMismatch, .unknownType, .unknownType, .badLength, .unexpectedType, .malformedRpc,
        .malformedResult].map fun r => some [.drop r] := by decide

/-- V30b: an unnamed state value is stored raw, and LINK stays CONNECTED. -/
theorem test_currentState :
    next? (exec (.currentState [0x07] 0xE7) s1) = some { s1 with devState := some 0x07, out := [.stateEvt 0x07] } := by
  decide

/-- V32: a device error fails the pending call. -/
theorem test_errorState_fails_the_call :
    next? (exec (.errorState [0x03] 0xE4) (s2 .one 0x01)) =
      some { s2 .none 0x01 with errCode := 0x03, out := [.errorEvt 0x03, .doneFail 0x01 .code 0x03] } := by decide

/-- V31: NO_ERROR fails nothing. -/
theorem test_errorState_no_error :
    next? (exec (.errorState [0x00] 0xE1) (s2 .one 0x03)) = some { s2 .one 0x03 with out := [.errorEvt 0x00] } := by
  decide

/-- V12, V13: a received RPC frame, well formed and not. -/
theorem test_rpc :
    emits (next? (exec (.rpc [0x03, 0x00] 0xE6) s0)) = some [.drop .unexpectedType] ∧
    emits (next? (exec (.rpc [0x03, 0x01] 0xE7) s0)) = some [.drop .malformedRpc] := by decide

/-- V39: a record beyond `P_MAX_RECORDS` = 1 fails the call; with room for two it is kept. -/
theorem test_rpcResult_overflow :
    emits (lastByte v39 (sMany (some 1))) = some [.doneFail 0x04 .overflow 0x00] ∧
    (lastByte v39 (sMany (some 2))).map State.pendRecs =
      some [[[0x41], [0x31], [0x4E, 0x4F]], [[0x42], [0x32], [0x4E, 0x4F]]] := by decide

/-- V39a, V14c, V34, V35 (by its command): the sentinel, a single response, and the two drops of a result. -/
theorem test_rpcResult :
    emits (lastByte v28b (sMany (some 1))) = some [.doneMany 0x04 [[[0x41], [0x31], [0x4E, 0x4F]]]] ∧
    emits (lastByte v14c (s2 .one 0x03)) = some [.doneOne 0x03 [[], []]] ∧
    emits (lastByte v34 s1) = some [.drop .resultNoPending] ∧
    emits (lastByte v34 (s2 .one 0x01)) = some [.drop .resultCmdMismatch] := by decide

/-- V63, V64: the end of the stream, with the call left pending and with the call failed. -/
theorem test_rxEnd :
    next? (exec .rxEnd (s2 .one 0x03)) = some { sStopped with out := [.disconnected] } ∧
    next? (exec .rxEnd { holding v1 (s2 .one 0x03) with cfg := ⟨none, true⟩ }) =
      some { sStopped with
        pendKind := .none, cfg := ⟨none, true⟩
        out := [.drop .partialAtEnd, .doneFail 0x03 .disconnected 0x00, .disconnected] } := by decide

/-- V60, V65: START acts only in IDLE. -/
theorem test_start :
    (next? (exec .start base)).map State.reader = some .running ∧
    next? (exec .start s0) = some s0 ∧ next? (exec .start sStopped) = some sStopped := by decide

/-- V62, V61, V65: CLOSE acts only in RUNNING. -/
theorem test_close :
    emits (next? (exec .close { s0 with fb := improv.take 4 })) = some [.drop .partialAtEnd, .disconnected] ∧
    next? (exec .close base) = some base ∧ next? (exec .close sStopped) = some sStopped := by decide

/-- V41, V47: accepted issues, before START and of an unnamed command. -/
theorem test_issueOne :
    next? (exec (.issueOne 0x03 []) base) =
      some { base with pendKind := .one, pendCmd := 0x03, out := [.tx v20], status := some .accepted } ∧
    emits (next? (exec (.issueOne 0x7F [0xAA]) s1)) =
      some [.tx (improv ++ [0x01, 0x03, 0x03, 0x7F, 0x01, 0xAA, 0x0E])] := by decide

/-- V45, V46, V42, V44: the refusals and their order. -/
theorem test_issueOne_refused :
    next? (exec (.issueOne 0x03 []) sStopped) = some { sStopped with status := some .callInProgress } ∧
    (next? (exec (.issueOne 0x01 (List.replicate 254 0x00)) (s2 .one 0x03))).map State.status =
      some (some .callInProgress) ∧
    (next? (exec (.issueOne 0x01 (List.replicate 254 0x00)) s1)).map State.status = some (some .dataTooLong) ∧
    (next? (exec (.issueOne 0x03 []) { sStopped with pendKind := .none })).map State.status =
      some (some .closed) := by decide +kernel

/-- V41a, V48: the shape is the event's, not the command's. -/
theorem test_issueMany :
    next? (exec (.issueMany 0x03 []) s1) =
      some { s2 .many 0x03 with out := [.tx v20], status := some .accepted } := by decide

/-- V50, V51, V52: TIMEOUT, and LINK stays CONNECTING. -/
theorem test_timeout :
    emits (next? (exec .timeout (s2 .one 0x01))) = some [.errorEvt 0xFE, .doneFail 0x01 .code 0xFE] ∧
    next? (exec .timeout base) = some { base with errCode := 0xFE, out := [.errorEvt 0xFE] } := by decide

/-- V53: ABANDON, with records received. -/
theorem test_abandon :
    next? (exec .abandon (sMany none)) = some { sMany none with pendKind := .none, pendRecs := [] } := by decide

/-- V24, V22, V20, V23: the transmit rows. -/
theorem test_transmit_rows :
    [exec (.txSendWifiSettings []) base, exec (.txRequestCurrentState []) base, exec (.txRequestInfo []) base,
      exec (.txRequestWifiNetworks []) base].map (fun o => emits (next? o)) =
      [some [.tx (improv ++ [0x01, 0x03, 0x02, 0x01, 0x00, 0xE4])],
        some [.tx (improv ++ [0x01, 0x03, 0x02, 0x02, 0x00, 0xE5])],
        some [.tx (improv ++ [0x01, 0x03, 0x02, 0x03, 0x00, 0xE6])],
        some [.tx (improv ++ [0x01, 0x03, 0x02, 0x04, 0x00, 0xE7])]] := by decide

/-- R65: a byte waits while the reader is idle, and the START behind it is taken first. -/
theorem test_step_passes_over_waiting_bytes :
    next? (step { base with input := [⟨0x0, [0x49]⟩, ⟨0x2, []⟩] }) =
      some { s0 with input := [⟨0x0, [0x49]⟩] } := by decide

/-- Every event row, a received row and a transmitted row run as the first step after reset (log entry 11). -/
theorem test_withFetchWord :
    (next? (step (State.reset.withFetchWord 8 0x00))).map State.fb = some [0x00] ∧
    (next? (step (State.reset.withFetchWord 8 0x02))).map State.reader = some .running ∧
    emits (next? (step (State.reset.withFetchWord 8 0x06))) = some [.errorEvt 0xFE] ∧
    emits (next? (step (State.reset.withFetchWord 64 0x494D50524F560101))) = some [.drop .checksumMismatch] ∧
    emits (next? (step (State.reset.withFetchWord 80 0x494D50524F5601030003))) = some [.tx v20] := by decide

/-! ### Part 4: the hypotheses of the obligations are met

Each theorem is named after its obligation, and gives concrete states and operands that meet all of its hypotheses; where
a statement has several clauses, each clause is met, at the boundary of its range. -/

/-- A header in reception, its ninth byte ready. -/
def sHeader : State := { s0 with fb := v1.take 8, input := [⟨0x0, [0x01]⟩] }
/-- A frame in reception, its last byte ready. -/
def sFrame : State := { holding v1 s0 with input := [⟨0x0, [0xE2]⟩] }
/-- A full record list, the sentinel's last byte ready. -/
def sFull : State := { holding v28b (sMany (some 1)) with input := [⟨0x0, [0xE8]⟩] }
/-- A running reader about to be closed. -/
def sClosing : State := { s1 with input := [⟨0x3, []⟩] }
/-- A stopped reader, a byte waiting and a host event behind it. -/
def sWaiting : State := { sStopped with input := [⟨0x0, [0x49]⟩, ⟨0x7, []⟩], out := [.disconnected] }

theorem sHeader_inv : StateInv sHeader := ⟨by decide, by decide, (by intro n h; cases h), by decide⟩
theorem sFrame_inv : StateInv sFrame := ⟨by decide, by decide, (by intro n h; cases h), by decide⟩
theorem sFull_inv : StateInv sFull := ⟨by decide, by decide, (by intro n h; cases h; decide), by decide⟩
theorem sClosing_inv : StateInv sClosing := ⟨by decide, by decide, (by intro n h; cases h), by decide⟩
theorem sWaiting_inv : StateInv sWaiting := ⟨by decide, by decide, (by intro n h; cases h), by decide⟩

theorem witness_StepKeepsTheStateInvariants :
    (StateInv sHeader ∧ ∃ t, step sHeader = .next t) ∧ (StateInv sFrame ∧ ∃ t, step sFrame = .next t) ∧
    (StateInv sFull ∧ ∃ t, step sFull = .next t) ∧ (StateInv sClosing ∧ ∃ t, step sClosing = .next t) ∧
    (StateInv sWaiting ∧ ∃ t, step sWaiting = .next t) :=
  ⟨⟨sHeader_inv, _, rfl⟩, ⟨sFrame_inv, _, rfl⟩, ⟨sFull_inv, _, rfl⟩, ⟨sClosing_inv, _, rfl⟩, ⟨sWaiting_inv, _, rfl⟩⟩

theorem witness_StepKeepsDisconnectedOnce :
    (DisconnectedOnce sClosing ∧ ∃ t, step sClosing = .next t) ∧
    (DisconnectedOnce sWaiting ∧ ∃ t, step sWaiting = .next t) :=
  ⟨⟨by decide, _, rfl⟩, ⟨by decide, _, rfl⟩⟩

theorem witness_StepSendsOnlyRequestFrames :
    OnlyRequestsSent { s1 with out := [.tx v20], input := [⟨0x4, [0x7F, 0xAA]⟩] } ∧
    ∃ t, step { s1 with out := [.tx v20], input := [⟨0x4, [0x7F, 0xAA]⟩] } = .next t := by
  refine ⟨fun bytes h => ⟨0x03, [], by decide, ?_⟩, _, rfl⟩
  simp only [List.mem_singleton, OutEvent.tx.injEq] at h
  rw [h]
  decide

theorem witness_FrameOfPayloadLengthTenIsNeverReceived :
    (StateInv sFrame ∧ HeaderInv sFrame ∧ ∃ t, step sFrame = .next t) ∧
    (StateInv sHeader ∧ HeaderInv sHeader ∧ ∃ t, step sHeader = .next t) :=
  ⟨⟨sFrame_inv, by decide, _, rfl⟩, ⟨sHeader_inv, by decide, _, rfl⟩⟩

theorem witness_DecodeOfEncodeIsTheInstruction :
    wellFormed (.rpcResult (List.replicate 255 0xFF) 0x00) = true ∧
    wellFormed (.txSendWifiSettings (List.replicate 253 0xFF)) = true ∧
    wellFormed (.issueMany 0xFF (List.replicate 254 0xFF)) = true := by decide +kernel

theorem witness_StepRunsTheDecodedEvent :
    (sHeader.input = ⟨0x0, [0x01]⟩ :: [] ∧ sHeader.reader = .running ∧
      decode (.event ⟨0x0, [0x01]⟩) = .ok (.rxByte 0x01)) ∧
    (let s := { sStopped with input := [⟨0x7, []⟩] }
     s.input = ⟨0x7, []⟩ :: [] ∧ isReceive ⟨0x7, []⟩ = false ∧ decode (.event ⟨0x7, []⟩) = .ok .abandon) := by decide

theorem witness_ReceiveEventsWaitWhileNotRunning :
    (base.reader ≠ .running ∧ sStopped.reader ≠ .running) ∧
    (let s := { base with input := [⟨0x0, [0x49]⟩, ⟨0x1, []⟩] }
     s.reader ≠ .running ∧ s.input ≠ [] ∧ ∀ h ∈ s.input, isReceive h = true) ∧
    (sWaiting.reader ≠ .running ∧ sWaiting.input = [⟨0x0, [0x49]⟩] ++ ⟨0x7, []⟩ :: [] ∧
      (∀ h ∈ [InputWord.mk 0x0 [0x49]], isReceive h = true) ∧ isReceive ⟨0x7, []⟩ = false ∧
      decode (.event ⟨0x7, []⟩) = .ok .abandon) := by decide

theorem witness_ReservedEventCodesAreRefused :
    (let s := { base with input := [⟨0x8, []⟩] }
     s.input = ⟨0x8, []⟩ :: [] ∧ 8 ≤ (0x8 : BitVec 4).toNat) ∧
    (let s := { s0 with input := [⟨0xF, [0x01]⟩] }
     s.input = ⟨0xF, [0x01]⟩ :: [] ∧ 8 ≤ (0xF : BitVec 4).toNat) := by decide

theorem witness_RxByteFollowsTheSyncState :
    (s0.reader = .running ∧ s0.fb.length < fbCap ∧ s0.sync = .unknown) ∧
    (let s := { s0 with sync := .nonproto }
     s.reader = .running ∧ s.fb.length < fbCap ∧ s.sync = .nonproto) ∧
    (let s := { s0 with sync := .proto, fb := List.replicate 264 0x00, expLen := 265 }
     s.reader = .running ∧ s.fb.length < fbCap ∧ s.sync = .proto ∧ s.fb.length + 1 = s.expLen) := by decide +kernel

theorem witness_RxByteAlwaysCompletes :
    (StateInv sHeader ∧ sHeader.reader = .running) ∧ (StateInv sFrame ∧ sFrame.reader = .running) ∧
    (StateInv sFull ∧ sFull.reader = .running) :=
  ⟨⟨sHeader_inv, rfl⟩, ⟨sFrame_inv, rfl⟩, ⟨sFull_inv, rfl⟩⟩

theorem witness_CompletedFrameRunsItsTableRow :
    sFrame.reader = .running ∧ sFrame.sync = .proto ∧ sFrame.fb.length < fbCap ∧
    sFrame.fb.length + 1 = sFrame.expLen ∧
    decode (.rxFrame (sFrame.fb ++ [0xE2])) = .ok (.currentState [0x02] 0xE2) := by decide

/-- The state and the shape that a frame of no row needs. -/
abbrev NoRow (b : Byte) (s : State) (v t : Byte) (p : List Byte) (c : Byte) : Prop :=
  s.reader = .running ∧ s.sync = .proto ∧ s.fb.length < fbCap ∧ s.fb.length + 1 = s.expLen ∧ p.length ≤ 255 ∧
  s.fb ++ [b] = magic ++ [v, t, BitVec.ofNat 8 p.length] ++ p ++ [c]

theorem witness_FrameOfNoRowIsDropped :
    (NoRow 0xE3 (holding v7 s0) 0x01 0x01 [0x02] 0xE3 ∧
      (0xE3 : Byte) ≠ sum8 (magic ++ [0x01, 0x01, 0x01] ++ [0x02])) ∧
    (NoRow 0xE3 (holding v5 s0) 0x02 0x01 [0x02] 0xE3 ∧
      (0xE3 : Byte) = sum8 (magic ++ [0x02, 0x01, 0x01] ++ [0x02]) ∧ (0x02 : Byte) ≠ 0x01) ∧
    (NoRow 0xE3 (holding v10 s0) 0x01 0x05 [] 0xE3 ∧
      (0xE3 : Byte) = sum8 (magic ++ [0x01, 0x05, 0x00] ++ []) ∧ 0x05 ≤ (0x05 : Byte).toNat) ∧
    (NoRow 0xE6 (holding v10a s0) 0x01 0x00 [0x07] 0xE6 ∧
      (0xE6 : Byte) = sum8 (magic ++ [0x01, 0x00, 0x01] ++ [0x07])) := by decide

/-- The hypotheses on the frame that follows a line. -/
abbrev Receivable (f : List Byte) : Prop :=
  f.take 6 = magic ∧ f.length = 10 + (f.getD 8 0x00).toNat ∧ newline ∉ f.take 9

/-- V3, V4 ("ok"), an empty line, and a line of nine bytes; from UNKNOWN and from NONPROTO. -/
theorem witness_FramerResynchronisesOnANewline :
    (s0.reader = .running ∧ s0.fb = [] ∧ s0.sync = .unknown) ∧
    (let s := { s0 with sync := .nonproto }
     s.reader = .running ∧ s.fb = [] ∧ s.sync = .nonproto) ∧
    (∀ l ∈ [[], [0x6F, 0x6B], improv ++ [0x01, 0x01], improv.drop 1 ++ [0x20, 0x20, 0x20, 0x20]],
      newline ∉ l ∧ ¬ (9 ≤ l.length ∧ l.take 6 = magic)) ∧
    Receivable v1 ∧ Receivable v10 := by decide

theorem witness_BytesInsideAFrameAreAppendedUnexamined :
    let s := { s0 with sync := .proto, fb := improv ++ [0x20, 0x6C, 0x6F], expLen := 121 }
    s.reader = .running ∧ s.sync = .proto ∧ s.expLen ≤ fbCap ∧ s.fb.length + ([newline] ++ v1).length < s.expLen := by
  decide

theorem witness_UnterminatedLineSwallowsWhatFollows :
    let s := { s0 with sync := .nonproto }
    s.reader = .running ∧ s.sync = .nonproto ∧ newline ∉ v1 := by decide

theorem witness_CurrentStateFrameSetsDevState :
    s0.reader = .running ∧
    (∀ p ∈ [[], [0x02], [0x02, 0x02], List.replicate 255 (0x00 : Byte)], p.length ≤ 255) ∧
    (0xE2 : Byte) = sum8 (magic ++ [0x01, 0x01, 0x01] ++ [0x02]) := by decide +kernel

theorem witness_ErrorStateFrameSetsErrCodeAndFailsTheCall :
    (s2 .one 0x01).reader = .running ∧ (s2 .one 0x01).pendKind ≠ .none ∧ ([0x03] : List Byte).length ≤ 255 ∧
    (0xE4 : Byte) = sum8 (magic ++ [0x01, 0x02, 0x01] ++ [0x03]) := by decide

theorem witness_ReceivedRpcFrameIsAlwaysDropped :
    s0.reader = .running ∧ ([0x03, 0x00] : List Byte).length ≤ 255 ∧
    (0xE7 : Byte) ≠ sum8 (magic ++ [0x01, 0x03, 0x02] ++ [0x03, 0x00]) ∧
    ((0xE6 : Byte) = sum8 (magic ++ [0x01, 0x03, 0x02] ++ [0x03, 0x00]) ∧ 2 + (0x00 : Byte).toNat = 2) ∧
    ((0xE7 : Byte) = sum8 (magic ++ [0x01, 0x03, 0x02] ++ [0x03, 0x01]) ∧ 2 + (0x01 : Byte).toNat ≠ 2) ∧
    ((0xE5 : Byte) = sum8 (magic ++ [0x01, 0x03, 0x01] ++ [0x03]) ∧ ([0x03] : List Byte).length < 2) := by decide

theorem witness_ResultFrameResolvesThePendingCall :
    (sMany (some 1)).reader = .running ∧
    (∀ fs ∈ [[], [[]], [[0x78]], List.replicate 253 ([] : Field), [List.replicate 252 (0x00 : Byte)]],
      (∀ f ∈ fs, f.length ≤ 255) ∧ (encodeFields fs).length ≤ 253) ∧
    (sMany (some 1)).cfg.maxRecords = some (sMany (some 1)).pendRecs.length := by decide +kernel

theorem witness_ResultPayloadDecodesOrIsDropped :
    s0.reader = .running ∧ ([0x03] : List Byte).length ≤ 255 ∧
    (0xE7 : Byte) ≠ sum8 (magic ++ [0x01, 0x04, BitVec.ofNat 8 ([0x03] : List Byte).length] ++ [0x03]) ∧
    ((0xE6 : Byte) = sum8 (magic ++ [0x01, 0x04, BitVec.ofNat 8 ([0x03] : List Byte).length] ++ [0x03]) ∧
      ∀ (cmd : Byte) (fs : Record), (∀ f ∈ fs, f.length ≤ 255) → [0x03] ≠ resultPayload cmd fs) ∧
    ((0xEB : Byte) = sum8 (magic ++ [0x01, 0x04, 0x04] ++ [0x03, 0x02, 0x00, 0x00]) ∧
      [0x03, 0x02, 0x00, 0x00] = resultPayload 0x03 [[], []]) :=
  ⟨by decide, by decide, by decide, ⟨by decide, fun cmd fs _ h => by simp [resultPayload] at h⟩, by decide, by decide⟩

theorem witness_ReceivedFramesNeedARunningReader :
    base.reader ≠ .running ∧ sStopped.reader ≠ .running := by decide

theorem witness_DropsAreNonFatal :
    exec (.rpc [0x03, 0x00] 0xE6) s0 = .next { s0 with out := [.drop .unexpectedType] } ∧
    exec (.rxByte newline) { s0 with fb := [0x6F, 0x6B] } = .next { s0 with out := [.drop .shortLine] } :=
  ⟨rfl, rfl⟩

/-- CLOSE and RX_END, with the call failed, left pending, or absent. -/
theorem witness_CloseTerminatesARunningReader :
    base.reader ≠ .running ∧
    (let s := sMany none
     s.reader = .running ∧ s.cfg.rejectOnDisconnect = true ∧ s.pendKind ≠ .none) ∧
    (let s := s2 .one 0x03
     s.reader = .running ∧ ¬ (s.cfg.rejectOnDisconnect = true ∧ s.pendKind ≠ .none)) := by decide

theorem witness_RxEndTerminatesARunningReader :
    sStopped.reader ≠ .running ∧
    (let s := sMany none
     s.reader = .running ∧ s.cfg.rejectOnDisconnect = true ∧ s.pendKind ≠ .none) ∧
    (let s := s1
     s.reader = .running ∧ ¬ (s.cfg.rejectOnDisconnect = true ∧ s.pendKind ≠ .none)) := by decide

theorem witness_TransmitRowsWriteOneRequestFrame :
    (List.replicate 253 (0x00 : Byte)).length ≤ 253 ∧ 253 < (List.replicate 254 (0x00 : Byte)).length := by
  decide +kernel

theorem witness_AcceptedIssueRunsItsTransmitRow :
    decode (.txFrame (encodeRpc 0x03 [])) = .ok (.txRequestInfo []) ∧ base.pendKind = .none ∧
    base.reader ≠ .stopped ∧ ([] : List Byte).length ≤ 253 := by decide

theorem witness_EncodedFrameHasItsFieldsAtTheirOffsets :
    ([] : List Byte).length ≤ 255 ∧ (List.replicate 255 (0x00 : Byte)).length ≤ 255 := by decide +kernel

theorem witness_ChecksumIsTheByteSumModulo256 : (List.replicate 264 (0xFF : Byte)).length ≤ 264 := by decide +kernel

theorem witness_DecodeOfEncodedFrameIsThePacket :
    (List.replicate 253 (0x00 : Byte)).length ≤ 253 ∧
    (∀ f ∈ [[], [0x78], ([] : Field)], f.length ≤ 255) ∧ (encodeFields [[], [0x78], []]).length ≤ 253 := by
  decide +kernel

/-- V9 and its like: the version, the type, a payload byte and the checksum byte. -/
theorem witness_SingleBitFlipIsAChecksumMismatch :
    frameOperands v1 = some ⟨0x01, 0x01, [0x02], 0xE2⟩ ∧ checksumOk v1 ⟨0x01, 0x01, [0x02], 0xE2⟩ = true ∧
    ∀ k ∈ [6, 7, 9, 10], (k = 6 ∨ k = 7 ∨ 9 ≤ k) ∧ k < v1.length := by decide

theorem witness_InstructionsWriteOnlyTheirElements :
    exec .start base = .next s0 ∧ exec .abandon (s2 .one 0x02) = .next (s2 .none 0x02) ∧
    endsReader .close = true ∧ (s2 .one 0x03).cfg.rejectOnDisconnect = false ∧
    exec .close (s2 .one 0x03) = .next { sStopped with out := [.disconnected] } := ⟨rfl, rfl, rfl, rfl, rfl⟩

theorem witness_FrameBufferReadsBackWhatWasWritten :
    (memWrite v1 9 [0x07] = some (v1.set 9 0x07) ∧ Memory.wf v1 = true) ∧
    (memWrite (List.replicate 264 0x00) 264 [0x01] = some (List.replicate 264 0x00 ++ [0x01]) ∧
      Memory.wf (List.replicate 264 0x00) = true) := by decide +kernel

theorem witness_OnlyRxByteStoresIntoTheFrameBuffer :
    exec (.rxByte 0x49) s0 = .next { s0 with fb := [0x49] } ∧
    exec (.rxByte 0x49) { s0 with sync := .nonproto } = .next { s0 with sync := .nonproto } ∧
    exec .timeout sHeader = .next { sHeader with errCode := 0xFE, out := [.errorEvt 0xFE] } := ⟨rfl, rfl, rfl⟩

theorem witness_LinkMovesOnlyByItsTable :
    (exec (.currentState [0x02] 0xE2) s0 = .next { s1 with out := [.stateEvt 0x02] } ∧ s0.link = .connecting) ∧
    exec .close s1 = .next { s1 with reader := .stopped, link := .error, out := [.disconnected] } ∧
    (exec .start sStopped = .next sStopped ∧ sStopped.link = .error) := ⟨⟨rfl, rfl⟩, rfl, rfl, rfl⟩

theorem witness_ReaderMovesOnlyByItsTable :
    (exec .start base = .next s0 ∧ base.reader = .idle) ∧
    (exec (.rxByte 0x49) s0 = .next { s0 with fb := [0x49] } ∧ s0.reader = .running) ∧
    (exec .start sStopped = .next sStopped ∧ sStopped.reader = .stopped) := ⟨⟨rfl, rfl⟩, ⟨rfl, rfl⟩, rfl, rfl⟩

theorem witness_CompletionsNameTheOnePendingCall :
    exec .timeout (s2 .one 0x01) =
      .next { s2 .none 0x01 with errCode := 0xFE, out := [.errorEvt 0xFE, .doneFail 0x01 .code 0xFE] } ∧
    exec (.issueOne 0x03 []) base =
      .next { base with pendKind := .one, pendCmd := 0x03, out := [.tx v20], status := some .accepted } :=
  ⟨rfl, rfl⟩

theorem witness_StrandedCallStaysPending :
    sStopped.reader = .stopped ∧ sStopped.pendKind ≠ .none ∧
    exec (.issueOne 0x03 []) sStopped = .next { sStopped with status := some .callInProgress } :=
  ⟨by decide, by decide, rfl⟩

theorem witness_ErrCodeChangesOnlyByErrorFrameOrTimeout :
    exec .timeout base = .next { base with errCode := 0xFE, out := [.errorEvt 0xFE] } ∧ (0xFE : Byte) ≠ base.errCode ∧
    exec (.errorState [0x03] 0xE4) s1 = .next { s1 with errCode := 0x03, out := [.errorEvt 0x03] } ∧
    (0x03 : Byte) ≠ s1.errCode := ⟨rfl, by decide, rfl, by decide⟩

theorem witness_DevStateChangesOnlyByStateFrame :
    exec (.currentState [0x07] 0xE7) s1 = .next { s1 with devState := some 0x07, out := [.stateEvt 0x07] } ∧
    devStateValid s1 = true := ⟨rfl, rfl⟩

end Sys2Proof.Tests
end

section
/-! Frames that match no row (spec/30_encoding.md R47): what the framer and `Decode` do with the byte that completes one. -/

namespace Sys2Proof.Machine

/-- The byte that fills the buffer to EXPLEN delivers the frame after the framer reset (R66, R67). -/
theorem exec_rxByte_completes {b : Byte} {s : State} (hr : s.reader = .running) (hp : s.sync = .proto)
    (hcap : s.fb.length < fbCap) (hlen : s.fb.length + 1 = s.expLen) :
    exec (.rxByte b) s = deliver (s.fb ++ [b]) (framerReset s) := by
  simp [exec, execRxByte, whenRunning, hr, hp, rxInFrame, hcap, hlen, framerReset]

/-- A frame that `Decode` drops leaves the DROP event alone (R67, R112). -/
theorem deliver_of_decodeFrame_drop {f : List Byte} {r : DropReason} (s : State) (h : decodeFrame f = .drop r) :
    deliver f s = .next (raiseDrop r s) := by
  simp [deliver, h]

/-- The order of `Decode`'s checks on a frame of any version (R75, R117). -/
theorem decodeFrame_of_fields (v t : Byte) (p : List Byte) (c : Byte) (hl : p.length ≤ 255) :
    decodeFrame (magic ++ [v, t, BitVec.ofNat 8 p.length] ++ p ++ [c]) =
      if c ≠ sum8 (magic ++ [v, t, BitVec.ofNat 8 p.length] ++ p) then .drop .checksumMismatch
      else if v ≠ version then .drop .unsupportedVersion
      else decodePayload t p := by
  have hfields : frameOperands (magic ++ [v, t, BitVec.ofNat 8 p.length] ++ p ++ [c]) = some ⟨v, t, p, c⟩ :=
    frameOperands_some_iff.2 ⟨by simp [magic], hl⟩
  have hbody : (magic ++ [v, t, BitVec.ofNat 8 p.length] ++ p ++ [c]).take (9 + p.length) =
      magic ++ [v, t, BitVec.ofNat 8 p.length] ++ p :=
    List.take_left' (by simp [magic]; omega)
  simp only [decodeFrame, hfields, checksumOk, hbody, beq_eq_false_iff_ne]

/-- The four assigned types are 0x01 to 0x04 (R47); every other type is unknown (R79). -/
theorem decodePayload_of_unassigned {t : Byte} (p : List Byte) (h : t = 0x00 ∨ 0x05 ≤ t.toNat) :
    decodePayload t p = .drop .unknownType := by
  have hne : t ≠ typeCurrentState ∧ t ≠ typeErrorState ∧ t ≠ typeRpc ∧ t ≠ typeRpcResult := by
    refine ⟨?_, ?_, ?_, ?_⟩ <;> rintro rfl <;> exact absurd h (by decide)
  obtain ⟨hstate, herror, hrpc, hresult⟩ := hne
  simp only [decodePayload, if_neg hstate, if_neg herror, if_neg hrpc, if_neg hresult]

/-- Settles O15: the completing byte delivers the frame to `Decode`, whose checks come in the order of the clauses. -/
theorem frameOfNoRowIsDropped : Obligations.FrameOfNoRowIsDropped := by
  unfold Obligations.FrameOfNoRowIsDropped
  intro b s v t p c hr hp hcap hlen hl hframe dropped good
  have hdec := decodeFrame_of_fields v t p c hl
  rw [← hframe] at hdec
  have hdrop (r : DropReason) (h : decodeFrame (s.fb ++ [b]) = .drop r) : exec (.rxByte b) s = .next (dropped r) :=
    (exec_rxByte_completes hr hp hcap hlen).trans (deliver_of_decodeFrame_drop _ h)
  refine ⟨fun hbad => hdrop _ ?_, fun hgood (hv : v ≠ version) => hdrop _ ?_,
    fun hgood (hv : v = version) ht => hdrop _ ?_⟩
  · rw [hdec, if_pos hbad]
  · rw [hdec, if_neg (not_not_intro hgood), if_pos hv]
  · rw [hdec, if_neg (not_not_intro hgood), if_neg (not_not_intro hv), decodePayload_of_unassigned p ht]

end Sys2Proof.Machine
end

section
/-! The framer's byte step by the value of SYNC (spec/40_framer.md R66): one equation for each branch the byte can take
while the reader runs and the buffer is below its capacity. -/

namespace Sys2Proof.Machine

/-- In NONPROTO the byte belongs to a line being discarded (R66, R69). -/
theorem exec_rxByte_nonproto {b : Byte} {s : State} (hr : s.reader = .running) (hs : s.sync = .nonproto) :
    exec (.rxByte b) s = .next (rxInLine b s) := by
  simp [exec, execRxByte, whenRunning, hr, hs]

/-- In PROTO the byte belongs to a frame (R66). -/
theorem exec_rxByte_proto {b : Byte} {s : State} (hr : s.reader = .running) (hs : s.sync = .proto) :
    exec (.rxByte b) s = rxInFrame b s := by
  simp [exec, execRxByte, whenRunning, hr, hs]

/-- In UNKNOWN the byte belongs to a candidate header (R66). -/
theorem exec_rxByte_unknown {b : Byte} {s : State} (hr : s.reader = .running) (hs : s.sync = .unknown) :
    exec (.rxByte b) s = rxUnknown b s := by
  simp [exec, execRxByte, whenRunning, hr, hs]

/-- Inside a frame the byte is appended; the one that reaches EXPLEN delivers the frame after the reset (R66, R67). -/
theorem rxInFrame_eq (b : Byte) {s : State} (hcap : s.fb.length < fbCap) :
    rxInFrame b s =
      if s.fb.length + 1 = s.expLen then deliver (s.fb ++ [b]) (framerReset s)
      else .next { s with fb := s.fb ++ [b] } := by
  simp [rxInFrame, memWrite_append_byte _ _ hcap, framerReset]

/-- A newline ends the candidate at every fill level, reporting it only if it held a byte (R66, D3). -/
theorem rxUnknown_newline (s : State) :
    rxUnknown newline s =
      .next { s with fb := [], out := if s.fb = [] then s.out else s.out ++ [.drop .shortLine] } := by
  by_cases hfb : s.fb = [] <;> simp [rxUnknown, hfb, raiseDrop, emit]

/-- Any other byte joins the candidate, and the header decision is taken on the longer buffer (R66). -/
theorem rxUnknown_append {b : Byte} {s : State} (hb : b ≠ newline) (hcap : s.fb.length < fbCap) :
    rxUnknown b s = .next (headerDecision { s with fb := s.fb ++ [b] }) := by
  simp [rxUnknown, hb, memWrite_append_byte _ _ hcap]

/-- No decision is taken at any length but nine (R66). -/
theorem headerDecision_of_length_ne {s : State} (h : s.fb.length ≠ hdrLen) : headerDecision s = s :=
  if_neg h

/-- The ninth byte decides: after the magic it is the length byte of a frame, otherwise the line is dropped (R66). -/
theorem headerDecision_ninth_byte (b : Byte) {s : State} (h : s.fb.length = 8) :
    headerDecision { s with fb := s.fb ++ [b] } =
      if (s.fb ++ [b]).take 6 = magic then
        { s with fb := s.fb ++ [b], sync := .proto, expLen := 10 + b.toNat }
      else { s with fb := [], sync := .nonproto, out := s.out ++ [.drop .nonProtocol] } := by
  have hlen : (s.fb ++ [b]).length = hdrLen := by simp [h, hdrLen]
  have hlast : (s.fb ++ [b]).getD 8 0x00 = b := by simp [List.getD, ← h]
  simp only [headerDecision, if_pos hlen, hlast, raiseDrop, emit]

/-- Settles O12: SYNC chooses the branch, and in UNKNOWN the byte and the fill level do. -/
theorem rxByteFollowsTheSyncState : Obligations.RxByteFollowsTheSyncState := by
  unfold Obligations.RxByteFollowsTheSyncState
  intro b s hr hcap
  split
  case h_1 hs => exact exec_rxByte_nonproto hr hs
  case h_2 hs => exact (exec_rxByte_proto hr hs).trans (rxInFrame_eq b hcap)
  case h_3 hs =>
    rw [exec_rxByte_unknown hr hs]
    by_cases hb : b = 0x0A
    · rw [if_pos hb, hb]
      exact rxUnknown_newline s
    · rw [if_neg hb, rxUnknown_append hb hcap]
      by_cases h9 : s.fb.length + 1 = 9
      · rw [if_pos h9, headerDecision_ninth_byte b (Nat.succ.inj h9), apply_ite Host.Outcome.next]
      · rw [if_neg h9, headerDecision_of_length_ne (by simpa [hdrLen] using h9)]

end Sys2Proof.Machine
end

section
/-! Payload operands (spec/30_encoding.md R50 to R54, R57): exactly which payloads each operand assembly accepts, and
what `Decode`'s payload branches (spec/41_codec.md R76 to R80) make of them. -/

namespace Sys2Proof.Machine

/-! The branch on the type, one equation for each assigned type (R75). -/

theorem decodePayload_typeCurrentState (p : List Byte) : decodePayload typeCurrentState p = decodeState p := rfl
theorem decodePayload_typeErrorState (p : List Byte) : decodePayload typeErrorState p = decodeError p := rfl
theorem decodePayload_typeRpc (p : List Byte) : decodePayload typeRpc p = decodeRpc p := rfl
theorem decodePayload_typeRpcResult (p : List Byte) : decodePayload typeRpcResult p = decodeResult p := rfl

/-- A payload that is not one byte has no value byte (R50, R51). -/
theorem singleByte_eq_none {p : List Byte} (h : ∀ v, p ≠ [v]) : singleByte p = none := by
  unfold singleByte
  split
  · exact absurd rfl (h _)
  · rfl

/-- A payload of one byte is a CURRENT_STATE packet (R76). -/
theorem decodePayload_state (v : Byte) : decodePayload typeCurrentState [v] = .packet (.currentState v) := rfl

/-- Any other length is refused (R76). -/
theorem decodePayload_state_badLength {p : List Byte} (h : ∀ v, p ≠ [v]) :
    decodePayload typeCurrentState p = .drop .badLength := by
  rw [decodePayload_typeCurrentState, decodeState, singleByte_eq_none h]

/-- A payload of one byte is an ERROR_STATE packet (R77). -/
theorem decodePayload_error (e : Byte) : decodePayload typeErrorState [e] = .packet (.errorState e) := rfl

/-- Any other length is refused (R77). -/
theorem decodePayload_error_badLength {p : List Byte} (h : ∀ e, p ≠ [e]) :
    decodePayload typeErrorState p = .drop .badLength := by
  rw [decodePayload_typeErrorState, decodeError, singleByte_eq_none h]

/-- An RPC payload has its command and its length byte, and as many data bytes as that says (R52, R78). -/
abbrev RpcTiles (p : List Byte) : Prop := 2 ≤ p.length ∧ 2 + (p.getD 1 0x00).toNat = p.length

/-- The command and the data of an RPC payload, at their offsets (R52). -/
theorem rpcOperands_eq (p : List Byte) :
    rpcOperands p = if RpcTiles p then some (p.getD 0 0x00, p.drop 2) else none := by
  match p with
  | [] => simp [rpcOperands]
  | [_] => simp [rpcOperands]
  | cmd :: len :: data =>
    have htiles : RpcTiles (cmd :: len :: data) ↔ len.toNat = data.length := by
      simp [RpcTiles]; omega
    simp [rpcOperands, htiles]

/-- A well-formed RPC payload decodes to its command and data (R78). -/
theorem decodePayload_rpc {p : List Byte} (h : RpcTiles p) :
    decodePayload typeRpc p = .packet (.rpc (p.getD 0 0x00) (p.drop 2)) := by
  rw [decodePayload_typeRpc, decodeRpc, rpcOperands_eq, if_pos h]

/-- Any other RPC payload is malformed (R78). -/
theorem decodePayload_rpc_malformed {p : List Byte} (h : ¬ RpcTiles p) :
    decodePayload typeRpc p = .drop .malformedRpc := by
  rw [decodePayload_typeRpc, decodeRpc, rpcOperands_eq, if_neg h]

/-- A length byte holds its length as long as that is at most 255 (R45, R53, R54). -/
theorem toNat_lengthByte {n : Nat} (h : n ≤ 255) : (BitVec.ofNat 8 n).toNat = n :=
  Nat.mod_eq_of_lt (Nat.lt_succ_of_le h)

/-- One turn of R80's loop: the length byte is followed by that many bytes, and the rest is fields again. -/
theorem fieldsWithin_cons {n : Nat} {len : Byte} {rest : List Byte} {fs : Record} :
    fieldsWithin (n + 1) (len :: rest) = some fs ↔
      len.toNat ≤ rest.length ∧
        ∃ fs', fieldsWithin n (rest.drop len.toNat) = some fs' ∧ fs = rest.take len.toNat :: fs' := by
  rw [fieldsWithin]
  split
  case isTrue hle => split <;> simp_all [eq_comm (a := fs)]
  case isFalse hle => simp [hle]

/-- Bytes that begin with a length byte are a field and more fields exactly when they split there (R54). -/
theorem encodeFields_cons_eq_cons {f : Field} {fs : Record} {len : Byte} {rest : List Byte} (hf : f.length ≤ 255) :
    encodeFields (f :: fs) = len :: rest ↔
      len.toNat ≤ rest.length ∧ f = rest.take len.toNat ∧ encodeFields fs = rest.drop len.toNat := by
  simp only [encodeFields, encodeField, List.cons_append, List.cons.injEq]
  constructor
  · rintro ⟨rfl, rfl⟩
    simp [toNat_lengthByte hf]
  · rintro ⟨hle, htake, hdrop⟩
    have hl : f.length = len.toNat := by rw [htake, List.length_take, Nat.min_eq_left hle]
    exact ⟨by simp [hl], by rw [hdrop, htake, List.take_append_drop]⟩

/-- No bytes are no fields, whatever turns are left (R80). -/
theorem fieldsWithin_nil_iff {n : Nat} {fs : Record} :
    fieldsWithin n [] = some fs ↔ (∀ f ∈ fs, f.length ≤ 255) ∧ encodeFields fs = [] := by
  have hnil : fieldsWithin n [] = some [] := by cases n <;> rfl
  cases fs <;> simp [hnil, encodeFields, encodeField]

/-- With a turn for every byte, R80's loop accepts exactly the bytes that fields of at most 255 bytes tile. -/
theorem fieldsWithin_eq_some_iff {n : Nat} {bytes : List Byte} {fs : Record} (h : bytes.length ≤ n) :
    fieldsWithin n bytes = some fs ↔ (∀ f ∈ fs, f.length ≤ 255) ∧ encodeFields fs = bytes := by
  induction n generalizing bytes fs with
  | zero =>
    obtain rfl : bytes = [] := List.length_eq_zero_iff.1 (Nat.le_zero.1 h)
    exact fieldsWithin_nil_iff
  | succ n ih =>
    match bytes, fs with
    | [], fs => exact fieldsWithin_nil_iff
    | len :: rest, [] => simp [fieldsWithin_cons, encodeFields]
    | len :: rest, f :: fs =>
      have hrest : (rest.drop len.toNat).length ≤ n := by
        simp only [List.length_cons, List.length_drop] at h ⊢; omega
      rw [fieldsWithin_cons]
      constructor
      · rintro ⟨hle, fs', hfs, heq⟩
        obtain ⟨rfl, rfl⟩ := List.cons.inj heq
        obtain ⟨hall, henc⟩ := (ih hrest).1 hfs
        have hf : (rest.take len.toNat).length ≤ 255 := by
          have := len.isLt; rw [List.length_take]; omega
        exact ⟨List.forall_mem_cons.2 ⟨hf, hall⟩, (encodeFields_cons_eq_cons hf).2 ⟨hle, rfl, henc⟩⟩
      · rintro ⟨hall, henc⟩
        obtain ⟨hf, htail⟩ := List.forall_mem_cons.1 hall
        obtain ⟨hle, rfl, hdrop⟩ := (encodeFields_cons_eq_cons hf).1 henc
        exact ⟨hle, fs, (ih hrest).2 ⟨htail, hdrop⟩, rfl⟩

/-- The fields of a byte string are the ones that tile it (R54, R80). -/
theorem parseFields_eq_some_iff {bytes : List Byte} {fs : Record} :
    parseFields bytes = some fs ↔ (∀ f ∈ fs, f.length ≤ 255) ∧ encodeFields fs = bytes :=
  fieldsWithin_eq_some_iff le_rfl

/-- R80's checks on a payload that has its command and its total length. -/
theorem resultOperands_cons_cons {cmd cmd' total : Byte} {bytes : List Byte} {fs : Record} :
    resultOperands (cmd' :: total :: bytes) = some (cmd, fs) ↔
      total.toNat = bytes.length ∧ parseFields bytes = some fs ∧ cmd' = cmd := by
  rw [resultOperands]
  split
  case isTrue htotal => split <;> simp_all [and_comm]
  case isFalse htotal => simp [htotal]

/-- The RPC_RESULT payloads are those of a command and fields, within the length of a frame's payload (R53, R80). -/
theorem resultOperands_eq_some_iff {p : List Byte} {cmd : Byte} {fs : Record} (hp : p.length ≤ 255) :
    resultOperands p = some (cmd, fs) ↔ (∀ f ∈ fs, f.length ≤ 255) ∧ p = resultPayload cmd fs := by
  match p with
  | [] => simp [resultOperands, resultPayload]
  | [_] => simp [resultOperands, resultPayload]
  | cmd' :: total :: bytes =>
    have hbytes : bytes.length ≤ 255 := by simp only [List.length_cons] at hp; omega
    have htotal : total.toNat = bytes.length ↔ total = BitVec.ofNat 8 bytes.length := by
      rw [← BitVec.toNat_inj, toNat_lengthByte hbytes]
    calc resultOperands (cmd' :: total :: bytes) = some (cmd, fs)
      _ ↔ total.toNat = bytes.length ∧ parseFields bytes = some fs ∧ cmd' = cmd := resultOperands_cons_cons
      _ ↔ total = BitVec.ofNat 8 bytes.length ∧
            ((∀ f ∈ fs, f.length ≤ 255) ∧ encodeFields fs = bytes) ∧ cmd' = cmd := by
        rw [htotal, parseFields_eq_some_iff]
      _ ↔ (∀ f ∈ fs, f.length ≤ 255) ∧ cmd' :: total :: bytes = resultPayload cmd fs := by
        simp only [resultPayload, List.cons_append, List.nil_append, List.cons.injEq]
        constructor
        · rintro ⟨rfl, ⟨hfs, rfl⟩, rfl⟩
          exact ⟨hfs, rfl, rfl, rfl⟩
        · rintro ⟨hfs, rfl, rfl, rfl⟩
          exact ⟨rfl, ⟨hfs, rfl⟩, rfl⟩

/-- The payload of a command and fields is an RPC_RESULT packet (R80). -/
theorem decodePayload_result {p : List Byte} {cmd : Byte} {fs : Record} (hl : p.length ≤ 255)
    (hfs : ∀ f ∈ fs, f.length ≤ 255) (hp : p = resultPayload cmd fs) :
    decodePayload typeRpcResult p = .packet (.rpcResult cmd fs) := by
  rw [decodePayload_typeRpcResult, decodeResult, (resultOperands_eq_some_iff hl).2 ⟨hfs, hp⟩]

/-- Any other RPC_RESULT payload is malformed (R80). -/
theorem decodePayload_result_malformed {p : List Byte} (hl : p.length ≤ 255)
    (h : ∀ (cmd : Byte) (fs : Record), (∀ f ∈ fs, f.length ≤ 255) → p ≠ resultPayload cmd fs) :
    decodePayload typeRpcResult p = .drop .malformedResult := by
  have hnone : resultOperands p = none := by
    rw [Option.eq_none_iff_forall_ne_some]
    rintro ⟨cmd, fs⟩ hsome
    obtain ⟨hfs, hp⟩ := (resultOperands_eq_some_iff hl).1 hsome
    exact h cmd fs hfs hp
  rw [decodePayload_typeRpcResult, decodeResult, hnone]

end Sys2Proof.Machine
end

section
/-! The four received rows while the reader runs (spec/41_codec.md R75, spec/42_correlator.md R88): the frame's checksum
decides first, then its payload. -/

namespace Sys2Proof.Machine

section
variable {t : Byte} {p : List Byte} {c : Byte} {s : State}

/-- A running reader delivers the frame (R65, R67). -/
theorem receiveFrame_running (hr : s.reader = .running) : receiveFrame t p c s = deliver (frameWith t p c) s :=
  if_pos hr

/-- A wrong checksum drops the frame before anything else is looked at (R75, R117). -/
theorem receiveFrame_badChecksum (hr : s.reader = .running) (hl : p.length ≤ 255) (hc : c ≠ sum8 (frameBody t p)) :
    receiveFrame t p c s = .next (raiseDrop .checksumMismatch s) := by
  rw [receiveFrame_running hr]
  exact deliver_of_decodeFrame_drop s (by rw [decodeFrame_frameWith t p c hl, if_neg hc])

/-- With a right checksum, a refused payload drops the frame for its own reason (R75, R112). -/
theorem receiveFrame_drop (hr : s.reader = .running) (hl : p.length ≤ 255) (hc : c = sum8 (frameBody t p))
    {r : DropReason} (hd : decodePayload t p = .drop r) : receiveFrame t p c s = .next (raiseDrop r s) := by
  rw [receiveFrame_running hr]
  exact deliver_of_decodeFrame_drop s (by rw [decodeFrame_frameWith t p c hl, if_pos hc, hd])

/-- With a right checksum, a decoded packet is dispatched (R75, R88). -/
theorem receiveFrame_packet (hr : s.reader = .running) (hl : p.length ≤ 255) (hc : c = sum8 (frameBody t p))
    {k : Packet} (hd : decodePayload t p = .packet k) : receiveFrame t p c s = .next (dispatch k s) := by
  rw [receiveFrame_running hr, deliver, decodeFrame_frameWith t p c hl, if_pos hc, hd]

end

/-- Settles O19: checksum, then length, then R89's effect. -/
theorem currentStateFrameSetsDevState : Obligations.CurrentStateFrameSetsDevState := by
  unfold Obligations.CurrentStateFrameSetsDevState
  intro p c s hr hl
  split
  case isTrue hc => exact receiveFrame_badChecksum hr hl hc
  case isFalse hc =>
    have hgood : c = sum8 (frameBody typeCurrentState p) := not_not.1 hc
    split
    case h_1 v =>
      exact (receiveFrame_packet hr hl hgood (decodePayload_state v)).trans
        (congrArg Host.Outcome.next (onState_eq v s))
    case h_2 hp => exact receiveFrame_drop hr hl hgood (decodePayload_state_badLength hp)

/-- Settles O20: checksum, then length, then R90's effect. -/
theorem errorStateFrameSetsErrCodeAndFailsTheCall : Obligations.ErrorStateFrameSetsErrCodeAndFailsTheCall := by
  unfold Obligations.ErrorStateFrameSetsErrCodeAndFailsTheCall
  intro p c s hr hl
  split
  case isTrue hc => exact receiveFrame_badChecksum hr hl hc
  case isFalse hc =>
    have hgood : c = sum8 (frameBody typeErrorState p) := not_not.1 hc
    split
    case h_1 e =>
      exact (receiveFrame_packet hr hl hgood (decodePayload_error e)).trans
        (congrArg Host.Outcome.next (onError_eq e s))
    case h_2 hp => exact receiveFrame_drop hr hl hgood (decodePayload_error_badLength hp)

/-- Settles O21: a packet decoded from a received RPC frame is not for this side of the link: it too is dropped. -/
theorem receivedRpcFrameIsAlwaysDropped : Obligations.ReceivedRpcFrameIsAlwaysDropped := by
  unfold Obligations.ReceivedRpcFrameIsAlwaysDropped
  intro p c s hr hl good wellFormedRpc dropped
  refine ⟨fun hbad => receiveFrame_badChecksum hr hl hbad,
    fun hgood hmal => receiveFrame_drop hr hl hgood (decodePayload_rpc_malformed hmal),
    fun hgood hwf => ⟨?_, receiveFrame_packet hr hl hgood (decodePayload_rpc hwf)⟩⟩
  exact (decodeFrame_frameWith typeRpc p c hl).trans ((if_pos hgood).trans (decodePayload_rpc hwf))

/-- Settles O23: the payload is a command, its length and fields that tile it, or R80 refuses it. -/
theorem resultPayloadDecodesOrIsDropped : Obligations.ResultPayloadDecodesOrIsDropped := by
  unfold Obligations.ResultPayloadDecodesOrIsDropped
  intro p c s hr hl good dropped
  refine ⟨fun hbad => receiveFrame_badChecksum hr hl hbad,
    fun hgood hmal => receiveFrame_drop hr hl hgood (decodePayload_result_malformed hl hmal),
    fun hgood cmd fs hfs hp => ?_⟩
  exact (decodeFrame_frameWith typeRpcResult p c hl).trans ((if_pos hgood).trans (decodePayload_result hl hfs hp))

end Sys2Proof.Machine
end

section
/-! An encoded frame at its offsets (spec/41_codec.md R83, spec/30_encoding.md R45). -/

namespace Sys2Proof

/-- The bytes before an encoded frame's checksum are its body (R83). -/
theorem encodeFrame_take_body (t : Byte) (p : List Byte) :
    (encodeFrame t p).take (9 + p.length) = frameBody t p :=
  frameWith_take_body t p _

/-- The checksum stands at offset 9 + N (R45). -/
theorem frameWith_getElem?_checksum (t : Byte) (p : List Byte) (c : Byte) :
    (frameWith t p c)[9 + p.length]? = some c := by
  rw [← frameBody_length t p, frameWith, List.getElem?_concat_length]

/-- The payload stands from offset 9 (R45). -/
theorem frameWith_payload (t : Byte) (p : List Byte) (c : Byte) :
    ((frameWith t p c).drop 9).take p.length = p :=
  List.take_left' (l₂ := [c]) rfl

/-- Settles O34: each field at its offset, and the checksum as the natural sum of the bytes before it, modulo 256. -/
theorem encodedFrameHasItsFieldsAtTheirOffsets : Obligations.EncodedFrameHasItsFieldsAtTheirOffsets := by
  unfold Obligations.EncodedFrameHasItsFieldsAtTheirOffsets
  intro t p hl
  refine ⟨frameWith_length t p _, frameWith_take_magic t p _, rfl, rfl,
    congrArg some (Machine.toNat_lengthByte hl), frameWith_payload t p _, ?_⟩
  rw [encodeFrame_take_body, encodeFrame, frameWith_getElem?_checksum, Option.map_some, sum8, BitVec.toNat_ofNat]

end Sys2Proof
end

section
/-! The pending-call slot (spec/42_correlator.md R91 to R96): what a result, an issue, a timeout and an abandon each make
of it. -/

namespace Sys2Proof.Machine

/-- The payload of fields of at most 253 bytes fits a frame (R46, R53). -/
theorem resultPayload_length_le (cmd : Byte) {fs : Record} (h : (encodeFields fs).length ≤ 253) :
    (resultPayload cmd fs).length ≤ 255 := by
  simp only [resultPayload, List.length_append, List.length_cons, List.length_nil]
  omega

/-- A well-formed RPC_RESULT frame with its checksum hands its command and fields to R91. -/
theorem exec_rpcResult_wellFormed (cmd : Byte) {fs : Record} {s : State} (hr : s.reader = .running)
    (hfs : ∀ f ∈ fs, f.length ≤ 255) (hlen : (encodeFields fs).length ≤ 253) :
    exec (.rpcResult (resultPayload cmd fs) (sum8 (frameBody typeRpcResult (resultPayload cmd fs)))) s =
      .next (onResult cmd fs s) :=
  have hl := resultPayload_length_le cmd hlen
  receiveFrame_packet hr hl rfl (decodePayload_result hl hfs rfl)

/-- With no call pending a result is dropped (R91). -/
theorem onResult_of_pendKind_none (c : Byte) (fs : Record) {s : State} (hk : s.pendKind = .none) :
    onResult c fs s = { s with out := s.out ++ [.drop .resultNoPending] } :=
  if_pos hk

/-- A single-response call takes the first result of its command (R91). -/
theorem onResult_of_pendKind_one (c : Byte) (fs : Record) {s : State} (hk : s.pendKind = .one) :
    onResult c fs s =
      if c ≠ s.pendCmd then { s with out := s.out ++ [.drop .resultCmdMismatch] }
      else { s with pendKind := .none, out := s.out ++ [.doneOne c fs] } := by
  have hpend : s.pendKind ≠ .none := by simp [hk]
  rw [onResult, if_neg hpend, if_pos hk]
  rfl

/-- A multi-response call collects records up to its capacity and ends with a result of no fields (R91). -/
theorem onResult_of_pendKind_many (c : Byte) (fs : Record) {s : State} (hk : s.pendKind = .many) :
    onResult c fs s =
      if c ≠ s.pendCmd then { s with out := s.out ++ [.drop .resultCmdMismatch] }
      else if fs = [] then
        { s with pendKind := .none, pendRecs := [], out := s.out ++ [.doneMany c s.pendRecs] }
      else if s.cfg.maxRecords = some s.pendRecs.length then
        { s with pendKind := .none, pendRecs := [], out := s.out ++ [.doneFail c .overflow 0x00] }
      else { s with pendRecs := s.pendRecs ++ [fs] } := by
  have hpend : s.pendKind ≠ .none := by simp [hk]
  have hmany : s.pendKind ≠ .one := by simp [hk]
  have hfull : recordsFull s = true ↔ s.cfg.maxRecords = some s.pendRecs.length := beq_iff_eq
  rw [onResult, if_neg hpend, if_neg hmany]
  simp only [hfull]
  rfl

/-- Settles O22: the frame decodes to its command and fields, and R91 answers by the slot's kind. -/
theorem resultFrameResolvesThePendingCall : Obligations.ResultFrameResolvesThePendingCall := by
  unfold Obligations.ResultFrameResolvesThePendingCall
  intro cmd fs s hr hfs hlen
  refine (exec_rpcResult_wellFormed cmd hr hfs hlen).trans (congrArg Host.Outcome.next ?_)
  split
  case h_1 hnone => exact onResult_of_pendKind_none cmd fs hnone
  case h_2 hone => exact onResult_of_pendKind_one cmd fs hone
  case h_3 hmany => exact onResult_of_pendKind_many cmd fs hmany

/-- R94 as one if-chain, the checks in R119's order. -/
theorem issueCommon_eq (shape : Shape) (cmd : Byte) (data : List Byte) (s : State) :
    issueCommon shape cmd data s =
      if s.pendKind ≠ .none then { s with status := some .callInProgress }
      else if maxData < data.length then { s with status := some .dataTooLong }
      else if s.reader = .stopped then { s with status := some .closed }
      else
        { s with
          pendKind := kindOf shape, pendCmd := cmd, pendRecs := []
          out := s.out ++ [.tx (encodeRpc cmd data)], status := some .accepted } := by
  have hpending : callPending s = true ↔ s.pendKind ≠ .none := by simp [callPending]
  simp only [issueCommon, hpending]
  rfl

/-- Settles O26: both issue events are R94's common step, for their own shape. -/
theorem issueSetsTheSlotAndTransmits : Obligations.IssueSetsTheSlotAndTransmits := by
  unfold Obligations.IssueSetsTheSlotAndTransmits
  intro cmd data s issued
  exact ⟨congrArg Host.Outcome.next (issueCommon_eq .one cmd data s),
    congrArg Host.Outcome.next (issueCommon_eq .many cmd data s)⟩

/-- Failing the pending call as one record update (R90, R95, R106, R113). -/
theorem failPending_eq (kind : FailKind) (code : Byte) (s : State) :
    failPending kind code s =
      if s.pendKind = .none then s
      else { s with pendKind := .none, pendRecs := [], out := s.out ++ [.doneFail s.pendCmd kind code] } :=
  ite_not ..

/-- Settles O27: the error is stored and reported first, then the pending call fails if there is one. -/
theorem timeoutFailsThePendingCall : Obligations.TimeoutFailsThePendingCall := by
  unfold Obligations.TimeoutFailsThePendingCall
  intro s
  refine congrArg Host.Outcome.next ((failPending_eq ..).trans ?_)
  by_cases hk : s.pendKind = .none <;> simp [hk, emit, errTimeout]

/-- Settles O28: ABANDON is the clearing of the slot and nothing else. -/
theorem abandonClearsTheSlotSilently : Obligations.AbandonClearsTheSlotSilently :=
  fun _ => rfl

end Sys2Proof.Machine
end

section
/-! The reader and the link (spec/43_reader_link.md R101 to R107): what START, CLOSE and RX_END do, and the two transition
tables. -/

namespace Sys2Proof.Machine

/-- Settles O29: START tests for IDLE and sets RUNNING. -/
theorem startSetsAnIdleReaderRunning : Obligations.StartSetsAnIdleReaderRunning :=
  fun _ => rfl

/-- A termination that fails the pending call (R106, D15). -/
theorem terminate_of_fails {s : State} (h : s.cfg.rejectOnDisconnect = true ∧ s.pendKind ≠ .none) :
    terminate s =
      { s with
        fb := [], expLen := 0, sync := .unknown, reader := .stopped, link := .error
        pendKind := .none, pendRecs := []
        out := s.out ++ (if s.fb = [] then [] else [.drop .partialAtEnd]) ++
          [.doneFail s.pendCmd .disconnected 0x00, .disconnected] } := by
  obtain ⟨hreject, hpending⟩ := h
  simp [terminate_eq, hreject, hpending]

/-- A termination with no call to fail leaves the slot as it is (R106, D15). -/
theorem terminate_of_not_fails {s : State} (h : ¬ (s.cfg.rejectOnDisconnect = true ∧ s.pendKind ≠ .none)) :
    terminate s =
      { s with
        fb := [], expLen := 0, sync := .unknown, reader := .stopped, link := .error
        out := s.out ++ (if s.fb = [] then [] else [.drop .partialAtEnd]) ++ [.disconnected] } := by
  have hkept : (if s.cfg.rejectOnDisconnect = true then .none else s.pendKind) = s.pendKind := by
    by_cases hreject : s.cfg.rejectOnDisconnect = true <;> simp_all
  simp only [terminate_eq, hkept, if_neg h, List.append_nil]

/-- Settles O30: in RUNNING, CLOSE is a termination. -/
theorem closeTerminatesARunningReader : Obligations.CloseTerminatesARunningReader := by
  unfold Obligations.CloseTerminatesARunningReader
  intro s
  constructor
  · intro hstill
    exact congrArg Host.Outcome.next (if_neg hstill)
  · intro hr
    exact ⟨terminate s, congrArg Host.Outcome.next (if_pos hr), terminate_of_fails, terminate_of_not_fails⟩

/-- Settles O31: a receive event waits unless the reader runs; in RUNNING, RX_END is a termination. -/
theorem rxEndTerminatesARunningReader : Obligations.RxEndTerminatesARunningReader := by
  unfold Obligations.RxEndTerminatesARunningReader
  intro s
  constructor
  · intro hstill
    exact if_neg hstill
  · intro hr
    exact ⟨terminate s, if_pos hr, terminate_of_fails, terminate_of_not_fails⟩

/-- From `s` to `t` an accepted state or error packet was reported: the first event emitted is STATE_EVT or ERROR_EVT
(R89, R90). -/
def ReportsDevice (s t : State) : Prop :=
  ∃ v evs, t.out = s.out ++ .stateEvt v :: evs ∨ t.out = s.out ++ .errorEvt v :: evs

theorem reportsDevice_of_stateEvt {s t : State} {v : Byte} {evs : List OutEvent}
    (h : t.out = s.out ++ .stateEvt v :: evs) : ReportsDevice s t := ⟨v, evs, .inl h⟩

theorem reportsDevice_of_errorEvt {s t : State} {v : Byte} {evs : List OutEvent}
    (h : t.out = s.out ++ .errorEvt v :: evs) : ReportsDevice s t := ⟨v, evs, .inr h⟩

/-- Emitting nothing reports nothing. -/
theorem not_reportsDevice_of_out_eq {s t : State} (h : t.out = s.out) : ¬ ReportsDevice s t := by
  rintro ⟨v, evs, hout | hout⟩ <;> simp [h] at hout

/-- Emitting one event of another kind reports nothing. -/
theorem not_reportsDevice_of_emit {s t : State} {ev : OutEvent} (h : t.out = s.out ++ [ev])
    (hstate : ∀ v, ev ≠ .stateEvt v) (herror : ∀ v, ev ≠ .errorEvt v) : ¬ ReportsDevice s t := by
  rintro ⟨v, evs, hout | hout⟩ <;> rw [h, List.append_cancel_left_eq, List.cons.injEq] at hout
  · exact hstate v hout.1
  · exact herror v hout.1

/-- A delivered frame leaves the reader running (R101). -/
theorem Delivered.reader_eq {s t : State} (h : Delivered s t) : t.reader = s.reader := by
  cases h <;> subst t <;> rfl

/-- A delivered frame moves the link exactly when it reports the device (R107). -/
theorem Delivered.link_eq {s t : State} (h : Delivered s t) :
    (ReportsDevice s t ∧ t.link = observedLink s) ∨ (¬ ReportsDevice s t ∧ t.link = s.link) := by
  cases h with
  | state v ht => subst t; exact .inl ⟨reportsDevice_of_stateEvt rfl, rfl⟩
  | error e ht | errorFails e he hp ht => subst t; exact .inl ⟨reportsDevice_of_errorEvt rfl, rfl⟩
  | record fs hp hf hm ht => subst t; exact .inr ⟨not_reportsDevice_of_out_eq rfl, rfl⟩
  | drop r ht | doneOne fs hp ht | doneMany hp ht | overflow hp hm ht =>
    subst t; exact .inr ⟨not_reportsDevice_of_emit rfl nofun nofun, rfl⟩

/-- How an instruction can move the reader and the link: the rows of R101's and R107's tables, and the instructions that
move neither. -/
inductive ReaderLinkMove (i : Instr) (s t : State) : Prop
  | started (hi : i = .start) (hr : s.reader = .idle) (hreader : t.reader = .running) (hlink : t.link = s.link)
  | terminated (hi : endsReader i = true) (hr : s.reader = .running) (hreader : t.reader = .stopped)
      (hlink : t.link = .error)
  | observed (hi : receives i = true) (hr : s.reader = .running) (hrep : ReportsDevice s t)
      (hreader : t.reader = s.reader) (hlink : t.link = observedLink s)
  | kept (hreceives : receives i = true → s.reader = .running ∧ ¬ ReportsDevice s t)
      (hstart : i = .start → s.reader ≠ .idle) (hends : endsReader i = true → i = .close ∧ s.reader ≠ .running)
      (hreader : t.reader = s.reader) (hlink : t.link = s.link)

/-- An instruction that receives neither starts the reader nor ends it. -/
theorem not_readerEvent_of_receives {i : Instr} (hi : receives i = true) : i ≠ .start ∧ endsReader i = false := by
  cases i <;> simp_all [receives, endsReader]

/-- Received input that reports nothing. -/
theorem ReaderLinkMove.of_unreported {i : Instr} {s t : State} (hi : receives i = true) (hr : s.reader = .running)
    (hrep : ¬ ReportsDevice s t) (hreader : t.reader = s.reader) (hlink : t.link = s.link) :
    ReaderLinkMove i s t := by
  obtain ⟨hstart, hends⟩ := not_readerEvent_of_receives hi
  exact .kept (fun _ => ⟨hr, hrep⟩) (absurd · hstart) (by simp [hends]) hreader hlink

/-- A received frame that was delivered (`Delivered.link_eq`, also after the framer's reset). -/
theorem ReaderLinkMove.of_delivered {i : Instr} {s t : State} (hi : receives i = true) (hr : s.reader = .running)
    (hreader : t.reader = s.reader)
    (hlink : (ReportsDevice s t ∧ t.link = observedLink s) ∨ (¬ ReportsDevice s t ∧ t.link = s.link)) :
    ReaderLinkMove i s t := by
  rcases hlink with ⟨hrep, hlink⟩ | ⟨hrep, hlink⟩
  · exact .observed hi hr hrep hreader hlink
  · exact .of_unreported hi hr hrep hreader hlink

/-- A host event or a transmit row. -/
theorem ReaderLinkMove.of_host {i : Instr} {s t : State} (hi : receives i = false) (hstart : i ≠ .start)
    (hends : endsReader i = false) (hreader : t.reader = s.reader) (hlink : t.link = s.link) :
    ReaderLinkMove i s t :=
  .kept (by simp [hi]) (absurd · hstart) (by simp [hends]) hreader hlink

/-- An issue is neither received nor one of the reader's events. -/
theorem hostEvent_of_issues {i : Instr} (hi : issues i = true) :
    receives i = false ∧ i ≠ .start ∧ endsReader i = false := by
  cases i <;> simp_all [issues, receives, endsReader]

/-- Every instruction moves the reader and the link in one of these ways. -/
theorem exec_readerLinkMove {i : Instr} {s t : State} (h : exec i s = .next t) : ReaderLinkMove i s t := by
  cases exec_next h with
  | lineEnds hi hr hs ht | ignored b hi hr hs ht | appended b hi hr hl hs ht | header b hi hr hs hb hl hm ht =>
    subst hi ht
    exact .of_unreported rfl hr (not_reportsDevice_of_out_eq rfl) rfl rfl
  | shortLine hi hr hs hf ht | nonProtocol b hi hr hs hl ht =>
    subst hi ht
    exact .of_unreported rfl hr (not_reportsDevice_of_emit rfl nofun nofun) rfl rfl
  | completed b hi hr hs hl hd =>
    subst hi
    have hdelivered := deliver_next hd
    exact .of_delivered rfl hr hdelivered.reader_eq hdelivered.link_eq
  | delivered f hi hn hr hd =>
    have hdelivered := deliver_next hd
    exact .of_delivered hi hr hdelivered.reader_eq hdelivered.link_eq
  | started hi hr ht => subst ht; exact .started hi hr rfl rfl
  | noEffect hi ht =>
    subst ht
    rcases hi with ⟨rfl, hr⟩ | ⟨rfl, hr⟩
    · exact .kept nofun (fun _ => hr) nofun rfl rfl
    · exact .kept nofun nofun (fun _ => ⟨rfl, hr⟩) rfl rfl
  | terminated hi hr ht => subst ht; exact .terminated hi hr (terminate_reader s) (terminate_link s)
  | refused st hi hst hc ht | accepted shape cmd data hi hp hl hr ht =>
    obtain ⟨hreceives, hstart, hends⟩ := hostEvent_of_issues hi
    subst ht
    exact .of_host hreceives hstart hends rfl rfl
  | timedOut hi ht => subst hi ht; exact .of_host rfl nofun rfl (by simp) (by simp)
  | abandoned hi ht => subst hi ht; exact .of_host rfl nofun rfl rfl rfl
  | sent cmd data hi hl ht =>
    obtain ⟨hreceives, hends, _, hstart, _, _⟩ := hi
    subst ht
    exact .of_host hreceives hstart hends rfl rfl

/-- Settles O42: each way to move the link is a row of R107's table. -/
theorem linkMovesOnlyByItsTable : Obligations.LinkMovesOnlyByItsTable := by
  unfold Obligations.LinkMovesOnlyByItsTable
  intro i s t h
  cases exec_readerLinkMove h with
  | started hi hr hreader hlink =>
    subst hi
    exact ⟨.inl hlink, nofun, nofun, hlink.trans⟩
  | terminated hi hr hreader hlink =>
    refine ⟨.inr (.inr ⟨hlink, hi, hr⟩), ?_, fun _ _ => hlink, fun _ => hlink⟩
    intro _ hreceives
    simp [not_readerEvent_of_receives hreceives] at hi
  | observed hi hr hrep hreader hlink =>
    have hends := (not_readerEvent_of_receives hi).2
    by_cases hconnecting : s.link = .connecting
    · have hconnected : t.link = .connected := hlink.trans (if_pos hconnecting)
      exact ⟨.inr (.inl ⟨hconnecting, hconnected, hi, hrep⟩), fun _ _ _ => hconnected, by simp [hends],
        by simp [hconnecting]⟩
    · have hsame : t.link = s.link := hlink.trans (if_neg hconnecting)
      exact ⟨.inl hsame, fun hc => absurd hc hconnecting, by simp [hends], hsame.trans⟩
  | kept hreceives hstart hends hreader hlink =>
    refine ⟨.inl hlink, ?_, ?_, hlink.trans⟩
    · intro _ hi hrep
      exact absurd hrep (hreceives hi).2
    · intro hi hr
      exact absurd hr (hends hi).2

/-- Settles O43: each way to move the reader is a row of R101's table. -/
theorem readerMovesOnlyByItsTable : Obligations.ReaderMovesOnlyByItsTable := by
  unfold Obligations.ReaderMovesOnlyByItsTable
  refine ⟨rfl, ?_⟩
  intro i s t h
  cases exec_readerLinkMove h with
  | started hi hr hreader hlink =>
    subst hi
    simp [receives, hr, hreader]
  | terminated hi hr hreader hlink => simp [hi, hr, hreader]
  | observed hi hr hrep hreader hlink =>
    have hends := (not_readerEvent_of_receives hi).2
    simp [hends, hr, hreader]
  | kept hreceives hstart hends hreader hlink =>
    refine ⟨?_, ?_, ?_, hreader.trans⟩
    · rintro (hi | rfl)
      · exact (hreceives hi).1
      · cases (hends rfl).1
    · intro hr
      rw [if_neg (hstart · hr), hreader, hr]
    · intro hr
      rw [if_neg (fun hi => (hends hi).2 hr), hreader, hr]

end Sys2Proof.Machine
end

section
/-! Reset and ERRCODE (spec/70_reset_and_hazards.md R124, R135): the value every element starts at, and what moves the
last error. -/

namespace Sys2Proof.Machine

/-- Settles O1: each element of the reset state is written with the table's value. -/
theorem resetPutsEveryElementAtItsTableValue : Obligations.ResetPutsEveryElementAtItsTableValue := by
  unfold Obligations.ResetPutsEveryElementAtItsTableValue
  and_intros <;> rfl

/-- A delivered frame keeps ERRCODE unless it is an error packet, which reports the code it stores before anything else
(R90). -/
theorem Delivered.errCode_eq_or_reported {s t : State} (h : Delivered s t) :
    t.errCode = s.errCode ∨ ∃ evs, t.out = s.out ++ .errorEvt t.errCode :: evs := by
  cases h with
  | error e ht => subst t; exact .inr ⟨[], rfl⟩
  | errorFails e he hp ht => subst t; exact .inr ⟨[.doneFail s.pendCmd .code e], rfl⟩
  | drop r ht | state v ht | doneOne fs hp ht | doneMany hp ht | overflow hp hm ht | record fs hp hf hm ht =>
    subst t; exact .inl rfl

/-- Every instruction but TIMEOUT and the received ones keeps ERRCODE; those move it only as R95 and R90 say (R135). -/
theorem exec_errCode {i : Instr} {s t : State} (h : exec i s = .next t) :
    t.errCode = s.errCode ∨ (i = .timeout ∧ t.errCode = errTimeout) ∨
      (receives i = true ∧ ∃ evs, t.out = s.out ++ .errorEvt t.errCode :: evs) := by
  cases exec_next h with
  | completed b hi hr hs hl hd =>
    -- the framer's reset before the delivery changes neither ERRCODE nor the outputs
    subst hi
    exact (deliver_next hd).errCode_eq_or_reported.imp_right fun hreported => .inr ⟨rfl, hreported⟩
  | delivered f hi hn hr hd =>
    exact (deliver_next hd).errCode_eq_or_reported.imp_right fun hreported => .inr ⟨hi, hreported⟩
  | timedOut hi ht => subst ht; exact .inr (.inl ⟨hi, by simp⟩)
  | terminated hi hr ht => subst ht; exact .inl (terminate_errCode s)
  | lineEnds hi hr hs ht | ignored b hi hr hs ht | appended b hi hr hl hs ht | header b hi hr hs hb hl hm ht
  | shortLine hi hr hs hf ht | nonProtocol b hi hr hs hl ht | started hi hr ht | noEffect hi ht
  | refused st hi hst hc ht | accepted shape cmd data hi hp hl hr ht | abandoned hi ht | sent cmd data hi hl ht =>
    subst ht; exact .inl rfl

/-- Settles O46: of the three ways ERRCODE can stand after an instruction, a change leaves two. -/
theorem errCodeChangesOnlyByErrorFrameOrTimeout : Obligations.ErrCodeChangesOnlyByErrorFrameOrTimeout := by
  unfold Obligations.ErrCodeChangesOnlyByErrorFrameOrTimeout
  intro i s t h hchanged
  exact (exec_errCode h).resolve_left hchanged

end Sys2Proof.Machine
end

section
/-! What an instruction leaves unchanged, unit by unit (spec/10_state.md R29, R32): the framer, the parameters and
the input, and the two elements that only an issue writes. -/

namespace Sys2Proof.Machine

/-- A delivered frame leaves the framer as it is (R67). -/
theorem Delivered.framer_eq {s t : State} (h : Delivered s t) :
    t.sync = s.sync ∧ t.fb = s.fb ∧ t.expLen = s.expLen := by
  cases h <;> subst t <;> exact ⟨rfl, rfl, rfl⟩

/-- A delivered frame changes neither the parameters nor the input (R32). -/
theorem Delivered.cfg_input_eq {s t : State} (h : Delivered s t) : t.cfg = s.cfg ∧ t.input = s.input := by
  cases h <;> subst t <;> exact ⟨rfl, rfl⟩

/-- A delivered frame names no new call and returns no status (R24, R114). -/
theorem Delivered.issued_eq {s t : State} (h : Delivered s t) : t.pendCmd = s.pendCmd ∧ t.status = s.status := by
  cases h <;> subst t <;> exact ⟨rfl, rfl⟩

/-- Only RX_BYTE and the reader's ends touch the framer (R29). -/
theorem exec_framer_eq {i : Instr} {s t : State} (h : exec i s = .next t) (hbyte : ∀ b, i ≠ .rxByte b)
    (hends : endsReader i = false) : t.sync = s.sync ∧ t.fb = s.fb ∧ t.expLen = s.expLen := by
  cases exec_next h with
  | lineEnds hi hr hs ht | shortLine hi hr hs hf ht => exact absurd hi (hbyte newline)
  | ignored b hi hr hs ht | appended b hi hr hl hs ht | header b hi hr hs hb hl hm ht | nonProtocol b hi hr hs hl ht
  | completed b hi hr hs hl hd => exact absurd hi (hbyte b)
  | terminated hi hr ht => simp [hends] at hi
  | delivered f hi hn hr hd => exact (deliver_next hd).framer_eq
  | timedOut hi ht => subst ht; simp
  | started hi hr ht | noEffect hi ht | refused st hi hst hc ht | accepted shape cmd data hi hp hl hr ht
  | abandoned hi ht | sent cmd data hi hl ht => subst ht; exact ⟨rfl, rfl, rfl⟩

/-- No instruction changes the parameters or the input (R32). -/
theorem exec_cfg_input_eq {i : Instr} {s t : State} (h : exec i s = .next t) : t.cfg = s.cfg ∧ t.input = s.input := by
  cases exec_next h with
  | completed b hi hr hs hl hd => exact (deliver_next hd).cfg_input_eq
  | delivered f hi hn hr hd => exact (deliver_next hd).cfg_input_eq
  | terminated hi hr ht | timedOut hi ht => subst ht; simp
  | lineEnds hi hr hs ht | ignored b hi hr hs ht | appended b hi hr hl hs ht | header b hi hr hs hb hl hm ht
  | shortLine hi hr hs hf ht | nonProtocol b hi hr hs hl ht | started hi hr ht | noEffect hi ht
  | refused st hi hst hc ht | accepted shape cmd data hi hp hl hr ht | abandoned hi ht | sent cmd data hi hl ht =>
    subst ht; exact ⟨rfl, rfl⟩

/-- Only an issue names a call or returns a status (R24, R114). -/
theorem exec_issued_eq {i : Instr} {s t : State} (h : exec i s = .next t) (hi : issues i = false) :
    t.pendCmd = s.pendCmd ∧ t.status = s.status := by
  cases exec_next h with
  | refused st hi' hst hc ht | accepted shape cmd data hi' hp hl hr ht => simp [hi] at hi'
  | completed b _ hr hs hl hd => exact (deliver_next hd).issued_eq
  | delivered f _ hn hr hd => exact (deliver_next hd).issued_eq
  | terminated _ hr ht | timedOut _ ht => subst ht; simp
  | lineEnds _ hr hs ht | ignored b _ hr hs ht | appended b _ hr hl hs ht | header b _ hr hs hb hl hm ht
  | shortLine _ hr hs hf ht | nonProtocol b _ hr hs hl ht | started _ hr ht | noEffect _ ht
  | abandoned _ ht | sent cmd data _ hl ht => subst ht; exact ⟨rfl, rfl⟩

/-- An instruction that can end the reader terminates it or does nothing (R104, R105). -/
theorem exec_endsReader {i : Instr} {s t : State} (h : exec i s = .next t) (hends : endsReader i = true) :
    (s.reader = .running ∧ t = terminate s) ∨ (s.reader ≠ .running ∧ t = s) := by
  cases i with
  | close =>
    obtain rfl := Host.Outcome.next.inj h
    by_cases hr : s.reader = .running
    · exact .inl ⟨hr, if_pos hr⟩
    · exact .inr ⟨hr, if_neg hr⟩
  | rxEnd =>
    obtain ⟨hr, hnext⟩ := whenRunning_next.1 h
    exact .inl ⟨hr, (Host.Outcome.next.inj hnext).symm⟩
  | _ => cases hends

end Sys2Proof.Machine
end

section
/-! What an instruction emits (spec/30_encoding.md R61): reports, one request, or a termination's events. -/

namespace Sys2Proof.Machine

/-- An event other than a TX and DISCONNECTED: it reports a drop, a device packet or the end of a call (R61). -/
def isReport : OutEvent → Bool
  | .tx _ => false
  | .disconnected => false
  | .drop _ => true
  | .stateEvt _ => true
  | .errorEvt _ => true
  | .doneOne _ _ => true
  | .doneMany _ _ => true
  | .doneFail _ _ _ => true

/-- DISCONNECTED is no report. -/
theorem disconnected_notMem_of_reports {evs : List OutEvent} (h : ∀ e ∈ evs, isReport e = true) :
    .disconnected ∉ evs :=
  fun hmem => Bool.false_ne_true (h _ hmem)

/-- A TX event is no report. -/
theorem tx_notMem_of_reports {evs : List OutEvent} (h : ∀ e ∈ evs, isReport e = true) (bytes : List Byte) :
    .tx bytes ∉ evs :=
  fun hmem => Bool.false_ne_true (h _ hmem)

/-- From `s` to `t` at most two events were emitted, all of them reports (R118). -/
def Reported (s t : State) : Prop :=
  ∃ evs, t.out = s.out ++ evs ∧ evs.length ≤ 2 ∧ ∀ e ∈ evs, isReport e = true

theorem reported_of_out_eq {s t : State} (h : t.out = s.out) : Reported s t :=
  ⟨[], by simp [h], by simp, by simp⟩

theorem reported_one {s t : State} {e : OutEvent} (h : t.out = s.out ++ [e]) (he : isReport e = true) : Reported s t :=
  ⟨[e], h, by simp, by simpa using he⟩

theorem reported_two {s t : State} {e e' : OutEvent} (h : t.out = s.out ++ [e, e']) (he : isReport e = true)
    (he' : isReport e' = true) : Reported s t :=
  ⟨[e, e'], h, by simp, by simp [he, he']⟩

/-- A delivered frame emits reports (R67, R88, R112). -/
theorem Delivered.reported {s t : State} (h : Delivered s t) : Reported s t := by
  cases h with
  | record fs hp hf hm ht => subst t; exact reported_of_out_eq rfl
  | errorFails e he hp ht => subst t; exact reported_two rfl rfl rfl
  | drop r ht | state v ht | error e ht | doneOne fs hp ht | doneMany hp ht | overflow hp hm ht =>
    subst t; exact reported_one rfl rfl

/-- What one instruction emits. -/
inductive Emitted (i : Instr) (s t : State) : Prop
  | reports (hends : endsReader i = true → s.reader ≠ .running) (hrep : Reported s t)
  | request (cmd : Byte) (data : List Byte) (hreceives : receives i = false) (hends : endsReader i = false)
      (hl : data.length ≤ maxData) (hout : t.out = s.out ++ [.tx (encodeRpc cmd data)])
  | termination (evs : List OutEvent) (hends : endsReader i = true) (hr : s.reader = .running)
      (hrep : ∀ e ∈ evs, isReport e = true) (hout : t.out = s.out ++ evs ++ [.disconnected])

/-- Received input emits reports. -/
theorem Emitted.of_received {i : Instr} {s t : State} (hi : receives i = true) (hrep : Reported s t) :
    Emitted i s t :=
  .reports (by simp [(not_readerEvent_of_receives hi).2]) hrep

/-- A termination reports what it cuts off and then that the reader is gone (R106). -/
theorem Emitted.of_terminate {i : Instr} {s : State} (hends : endsReader i = true) (hr : s.reader = .running) :
    Emitted i s (terminate s) := by
  have hout := terminate_out s
  rw [List.append_assoc s.out] at hout
  refine .termination _ hends hr ?_ hout
  refine List.forall_mem_append.2 ⟨?_, ?_⟩ <;> split <;> simp [isReport]

/-- Every instruction emits in one of these ways. -/
theorem exec_emitted {i : Instr} {s t : State} (h : exec i s = .next t) : Emitted i s t := by
  cases exec_next h with
  | lineEnds hi hr hs ht | ignored b hi hr hs ht | appended b hi hr hl hs ht | header b hi hr hs hb hl hm ht =>
    subst hi ht; exact .of_received rfl (reported_of_out_eq rfl)
  | shortLine hi hr hs hf ht | nonProtocol b hi hr hs hl ht =>
    subst hi ht; exact .of_received rfl (reported_one rfl rfl)
  | completed b hi hr hs hl hd => subst hi; exact .of_received rfl (deliver_next hd).reported
  | delivered f hi hn hr hd => exact .of_received hi (deliver_next hd).reported
  | started hi hr ht => subst hi ht; exact .reports nofun (reported_of_out_eq rfl)
  | noEffect hi ht =>
    subst ht
    refine .reports (fun hends => ?_) (reported_of_out_eq rfl)
    rcases hi with ⟨rfl, _⟩ | ⟨_, hr⟩
    · cases hends
    · exact hr
  | terminated hi hr ht => subst ht; exact .of_terminate hi hr
  | refused st hi hst hc ht =>
    subst ht; exact .reports (by simp [(hostEvent_of_issues hi).2.2]) (reported_of_out_eq rfl)
  | accepted shape cmd data hi hp hl hr ht =>
    obtain ⟨hreceives, _, hends⟩ := hostEvent_of_issues hi
    subst ht; exact .request cmd data hreceives hends hl rfl
  | timedOut hi ht =>
    subst hi ht
    refine .reports nofun ?_
    by_cases hk : s.pendKind = .none
    · exact reported_one (e := .errorEvt errTimeout) (by simp [hk]) rfl
    · exact reported_two (e := .errorEvt errTimeout) (e' := .doneFail s.pendCmd .code errTimeout) (by simp [hk]) rfl rfl
  | abandoned hi ht => subst hi ht; exact .reports nofun (reported_of_out_eq rfl)
  | sent cmd data hi hl ht =>
    obtain ⟨hreceives, hends, _⟩ := hi
    subst ht; exact .request cmd data hreceives hends hl rfl

end Sys2Proof.Machine
end

section
/-! The pending-call slot over all instructions (spec/42_correlator.md R97 to R99): the ways it can move, with the
events that go with each. -/

namespace Sys2Proof.Machine

/-- How an instruction can move the slot. -/
inductive SlotMove (i : Instr) (s t : State) : Prop
  | kept (evs : List OutEvent) (hkind : t.pendKind = s.pendKind) (hrecs : t.pendRecs = s.pendRecs)
      (hout : t.out = s.out ++ evs) (hevs : ∀ e ∈ evs, isCompletion e = false)
  | recorded (fs : Record) (hr : s.reader = .running) (hmany : s.pendKind = .many) (hfs : fs ≠ [])
      (hroom : s.cfg.maxRecords ≠ some s.pendRecs.length) (hkind : t.pendKind = s.pendKind)
      (hrecs : t.pendRecs = s.pendRecs ++ [fs]) (hout : t.out = s.out)
  | filled (bytes : List Byte) (hi : issues i = true) (hfree : s.pendKind = .none) (hst : t.status = some .accepted)
      (hrecs : t.pendRecs = []) (hout : t.out = s.out ++ [.tx bytes])
  | completed (front back : List OutEvent) (e : OutEvent) (hi : i = .timeout ∨ s.reader = .running)
      (hpending : s.pendKind ≠ .none) (hkind : t.pendKind = .none)
      (hrecs : t.pendRecs = [] ∨ (s.pendKind = .one ∧ t.pendRecs = s.pendRecs))
      (hout : t.out = s.out ++ (front ++ e :: back)) (hfront : ∀ x ∈ front, isCompletion x = false)
      (hback : ∀ x ∈ back, isCompletion x = false) (he : isCompletion e = true)
      (hcmd : completionCmd e = some s.pendCmd)
  | abandoned (hi : i = .abandon) (hkind : t.pendKind = .none) (hrecs : t.pendRecs = []) (hout : t.out = s.out)

theorem SlotMove.of_silent {i : Instr} {s t : State} (hkind : t.pendKind = s.pendKind)
    (hrecs : t.pendRecs = s.pendRecs) (hout : t.out = s.out) : SlotMove i s t :=
  .kept [] hkind hrecs (by simp [hout]) nofun

theorem SlotMove.of_emit {i : Instr} {s t : State} {e : OutEvent} (hkind : t.pendKind = s.pendKind)
    (hrecs : t.pendRecs = s.pendRecs) (hout : t.out = s.out ++ [e]) (he : isCompletion e = false) : SlotMove i s t :=
  .kept [e] hkind hrecs hout (by simpa using he)

/-- A delivered frame keeps the slot, adds a record to it, or completes the call (R90, R91). -/
theorem Delivered.slotMove {i : Instr} {s t : State} (h : Delivered s t) (hr : s.reader = .running) :
    SlotMove i s t := by
  cases h with
  | drop r ht | state v ht | error e ht => subst t; exact .of_emit rfl rfl rfl rfl
  | errorFails e he hp ht =>
    subst t; exact .completed [.errorEvt e] [] _ (.inr hr) hp rfl (.inl rfl) rfl (by simp [isCompletion]) nofun rfl rfl
  | doneOne fs hp ht =>
    subst t; exact .completed [] [] _ (.inr hr) (by simp [hp]) rfl (.inr ⟨hp, rfl⟩) rfl nofun nofun rfl rfl
  | doneMany hp ht | overflow hp hm ht =>
    subst t; exact .completed [] [] _ (.inr hr) (by simp [hp]) rfl (.inl rfl) rfl nofun nofun rfl rfl
  | record fs hp hf hm ht => subst t; exact .recorded fs hr hp hf hm rfl rfl rfl

/-- The state TIMEOUT leads to (R95). -/
abbrev timedOut (s : State) : State :=
  failPending .code errTimeout (emit (.errorEvt errTimeout) { s with errCode := errTimeout })

/-- A TIMEOUT fails the call if there is one (R95). -/
theorem SlotMove.of_timeout (s : State) : SlotMove .timeout s (timedOut s) := by
  by_cases hk : s.pendKind = .none
  · exact .of_emit (e := .errorEvt errTimeout) (by simp [hk]) (by simp [hk]) (by simp [hk]) rfl
  · exact .completed [.errorEvt errTimeout] [] (.doneFail s.pendCmd .code errTimeout) (.inl rfl) hk (by simp)
      (.inl (by simp [hk])) (by simp [hk]) (by simp [isCompletion]) nofun rfl rfl

/-- A termination's drop is no completion. -/
theorem partialAtEnd_not_completion (fb : Memory) :
    ∀ x ∈ (if fb = [] then [] else [OutEvent.drop .partialAtEnd]), isCompletion x = false := by
  split <;> simp [isCompletion]

/-- A termination fails the call or leaves it pending (R106, D15). -/
theorem SlotMove.of_terminate {i : Instr} {s : State} (hr : s.reader = .running) : SlotMove i s (terminate s) := by
  by_cases hfails : s.cfg.rejectOnDisconnect = true ∧ s.pendKind ≠ .none
  · rw [terminate_of_fails hfails]
    exact .completed _ [.disconnected] _ (.inr hr) hfails.2 rfl (.inl rfl) (List.append_assoc ..)
      (partialAtEnd_not_completion s.fb) (by simp [isCompletion]) rfl rfl
  · rw [terminate_of_not_fails hfails]
    refine .kept _ rfl rfl (List.append_assoc ..) (List.forall_mem_append.2 ⟨partialAtEnd_not_completion s.fb, ?_⟩)
    simp [isCompletion]

/-- The framer's reset before a delivery changes neither the slot nor the outputs (R67). -/
theorem SlotMove.of_framerReset {i : Instr} {s t : State} (h : SlotMove i (framerReset s) t) : SlotMove i s t := by
  cases h with
  | kept evs hkind hrecs hout hevs => exact .kept evs hkind hrecs hout hevs
  | recorded fs hr hmany hfs hroom hkind hrecs hout => exact .recorded fs hr hmany hfs hroom hkind hrecs hout
  | filled bytes hi hfree hst hrecs hout => exact .filled bytes hi hfree hst hrecs hout
  | completed front back e hi hpending hkind hrecs hout hfront hback he hcmd =>
    exact .completed front back e hi hpending hkind hrecs hout hfront hback he hcmd
  | abandoned hi hkind hrecs hout => exact .abandoned hi hkind hrecs hout

/-- Every instruction moves the slot in one of these ways. -/
theorem exec_slotMove {i : Instr} {s t : State} (h : exec i s = .next t) : SlotMove i s t := by
  cases exec_next h with
  | lineEnds hi hr hs ht | ignored b hi hr hs ht | appended b hi hr hl hs ht | header b hi hr hs hb hl hm ht
  | started hi hr ht | noEffect hi ht | refused st hi hst hc ht => subst ht; exact .of_silent rfl rfl rfl
  | shortLine hi hr hs hf ht | nonProtocol b hi hr hs hl ht | sent cmd data hi hl ht =>
    subst ht; exact .of_emit rfl rfl rfl rfl
  | completed b hi hr hs hl hd => exact .of_framerReset ((deliver_next hd).slotMove hr)
  | delivered f hi hn hr hd => exact (deliver_next hd).slotMove hr
  | terminated hi hr ht => subst ht; exact .of_terminate hr
  | accepted shape cmd data hi hp hl hr ht => subst ht; exact .filled _ hi hp rfl rfl rfl
  | timedOut hi ht => subst hi ht; exact .of_timeout s
  | abandoned hi ht => subst ht; exact .abandoned hi rfl rfl rfl

end Sys2Proof.Machine
end

section
/-! The invariants (spec/10_state.md R26, spec/43_reader_link.md R108, spec/70_reset_and_hazards.md R130, R134): each
unit's part is kept by every instruction, and so by every step. -/

namespace Sys2Proof.Machine

/-- What taking an event and every instruction keep, a step keeps (R11). -/
theorem step_keeps {P : State → Prop} (htake : ∀ rest s, P s → P (takeInput rest s))
    (hexec : ∀ i s t, P s → exec i s = .next t → P t) {s t : State} (hs : P s) (h : step s = .next t) : P t := by
  obtain ⟨w, rest, i, _, _, hi⟩ := step_next h
  exact hexec i _ t (htake rest s hs) hi

/-! ### The framer -/

/-- A framer that has just been reset, or has just lost its line, meets its invariant. -/
theorem framerInv_of_empty {s : State} (hs : s.sync ≠ .proto) (hfb : s.fb = []) (he : s.expLen = 0) :
    FramerInv s := by
  simp [FramerInv, hs, hfb, he]

/-- The framer's invariant speaks of the framer only. -/
theorem framerInv_congr {s t : State} (h : t.sync = s.sync ∧ t.fb = s.fb ∧ t.expLen = s.expLen)
    (hs : FramerInv s) : FramerInv t := by
  obtain ⟨hsync, hfb, he⟩ := h
  simpa only [FramerInv, hsync, hfb, he] using hs

/-- Outside PROTO, EXPLEN is 0 (R18). -/
theorem FramerInv.expLen_eq_zero {s : State} (h : FramerInv s) (hs : s.sync ≠ .proto) : s.expLen = 0 :=
  not_not.1 fun he => hs (h.1.2 he)

/-- The framer's byte step keeps the framer's invariant (R26, R66). -/
theorem exec_rxByte_framerInv {b : Byte} {s t : State} (hinv : FramerInv s) (h : exec (.rxByte b) s = .next t) :
    FramerInv t := by
  have ⟨hiff, hproto, hnonproto, hunknown⟩ := hinv
  obtain ⟨_, hcases⟩ := execRxByte_cases h
  rcases hcases with ⟨hs, _, rfl⟩ | ⟨_, _, rfl⟩ | ⟨_, _, _, hd⟩ | ⟨hs, _, hl, rfl⟩ | ⟨_, _, _, rfl⟩ | ⟨hs, _, _, rfl⟩ |
    ⟨hs, hb, _, hl, rfl⟩ | ⟨hs, hb, hl, hm, rfl⟩ | ⟨hs, _, _, _, rfl⟩
  · exact framerInv_of_empty (by simp) (hnonproto hs) (hinv.expLen_eq_zero (by simp [hs]))
  · exact hinv
  · exact framerInv_congr (deliver_next hd).framer_eq (framerInv_of_empty (by simp) rfl rfl)
  · -- the frame grows behind its header
    obtain ⟨h9, hlt, he, hm⟩ := hproto hs
    have hheader : (s.fb ++ [b]).getD 8 0x00 = s.fb.getD 8 0x00 := List.getD_append _ _ _ _ (by omega)
    refine ⟨hiff, fun _ => ⟨?_, ?_, ?_, ?_⟩, by simp [hs], by simp [hs]⟩
    · simp only [List.length_append]; omega
    · simp only [List.length_append, List.length_singleton]; omega
    · simpa only [hheader] using he
    · rw [← hm]; exact List.take_append_of_le_length (by omega)
  · exact hinv
  · exact framerInv_of_empty (by simp [hs]) rfl (hinv.expLen_eq_zero (by simp [hs]))
  · -- the candidate grows by a byte that is no newline
    obtain ⟨h8, hnl⟩ := hunknown hs
    refine ⟨hiff, by simp [hs], by simp [hs], fun _ => ⟨?_, ?_⟩⟩
    · simp only [List.length_append, List.length_singleton]; omega
    · simp [hnl, Ne.symm hb]
  · -- the ninth byte is the length byte
    have hlast : (s.fb ++ [b]).getD 8 0x00 = b := by simp [List.getD, ← Nat.succ.inj hl]
    refine ⟨by simp, fun _ => ⟨?_, ?_, by simp only [hlast], hm⟩, by simp, by simp⟩
    · simp only [List.length_append, List.length_singleton]; omega
    · simp only [List.length_append, List.length_singleton]; omega
  · exact framerInv_of_empty (by simp) rfl (hinv.expLen_eq_zero (by simp [hs]))

/-- A terminated reader's framer is reset (R106). -/
theorem terminate_framerInv (s : State) : FramerInv (terminate s) :=
  framerInv_of_empty (by simp) (by simp) (by simp)

/-- Every instruction keeps the framer's invariant. -/
theorem exec_framerInv {i : Instr} {s t : State} (hinv : FramerInv s) (h : exec i s = .next t) : FramerInv t := by
  by_cases hbyte : ∃ b, i = .rxByte b
  · obtain ⟨b, rfl⟩ := hbyte
    exact exec_rxByte_framerInv hinv h
  · cases hends : endsReader i with
    | true =>
      rcases exec_endsReader h hends with ⟨_, rfl⟩ | ⟨_, rfl⟩
      · exact terminate_framerInv s
      · exact hinv
    | false => exact framerInv_congr (exec_framer_eq h (not_exists.1 hbyte) hends) hinv

/-! ### The slot -/

/-- Every instruction keeps the slot's invariant. -/
theorem exec_slotInv {i : Instr} {s t : State} (hinv : SlotInv s) (h : exec i s = .next t) : SlotInv t := by
  obtain ⟨hempty, hfields⟩ := hinv
  cases exec_slotMove h with
  | kept evs hkind hrecs hout hevs => simpa only [SlotInv, hkind, hrecs] using ⟨hempty, hfields⟩
  | recorded fs hr hmany hfs hroom hkind hrecs hout =>
    refine ⟨fun hne => absurd (hkind.trans hmany) hne, ?_⟩
    simpa [hrecs, or_imp, forall_and, hfs] using hfields
  | filled bytes hi hfree hst hrecs hout | abandoned hi hkind hrecs hout => simp [SlotInv, hrecs]
  | completed front back e hi hpending hkind hrecs hout hfront hback he hcmd =>
    have hrecs' : t.pendRecs = [] := hrecs.elim id fun ⟨hone, heq⟩ => heq.trans (hempty (by simp [hone]))
    simp [SlotInv, hrecs']

/-- Every instruction keeps the record list within its capacity (R25). -/
theorem exec_capacityInv {i : Instr} {s t : State} (hinv : CapacityInv s) (h : exec i s = .next t) :
    CapacityInv t := by
  intro n hn
  rw [(exec_cfg_input_eq h).1] at hn
  have hle := hinv n hn
  cases exec_slotMove h with
  | kept evs hkind hrecs hout hevs => rwa [hrecs]
  | recorded fs hr hmany hfs hroom hkind hrecs hout =>
    have hne : n ≠ s.pendRecs.length := by rintro rfl; exact hroom hn
    rw [hrecs, List.length_append, List.length_singleton]; omega
  | filled bytes hi hfree hst hrecs hout | abandoned hi hkind hrecs hout => simp [hrecs]
  | completed front back e hi hpending hkind hrecs hout hfront hback he hcmd =>
    rcases hrecs with hrecs | ⟨_, hrecs⟩
    · simp [hrecs]
    · rwa [hrecs]

/-! ### The reader and the link -/

/-- Unless the reader runs, an instruction leaves the framer as it is or terminates (R65). -/
theorem exec_framer_eq_of_not_running {i : Instr} {s t : State} (h : exec i s = .next t) (hr : s.reader ≠ .running) :
    t.sync = s.sync ∧ t.fb = s.fb ∧ t.expLen = s.expLen := by
  cases hends : endsReader i with
  | true =>
    rcases exec_endsReader h hends with ⟨hrun, _⟩ | ⟨_, rfl⟩
    · exact absurd hrun hr
    · exact ⟨rfl, rfl, rfl⟩
  | false =>
    refine exec_framer_eq h ?_ hends
    rintro b rfl
    exact hr (execRxByte_cases h).1

/-- Every instruction keeps the reader's and the link's invariant. -/
theorem exec_readerInv {i : Instr} {s t : State} (hinv : ReaderInv s) (h : exec i s = .next t) : ReaderInv t := by
  obtain ⟨hstopped, hidle, hconnected⟩ := hinv
  cases exec_readerLinkMove h with
  | started hi hr hreader hlink => simp_all [ReaderInv]
  | terminated hi hr hreader hlink =>
    rcases exec_endsReader h hi with ⟨_, rfl⟩ | ⟨hne, _⟩
    · simp [ReaderInv]
    · exact absurd hr hne
  | observed hi hr hrep hreader hlink =>
    have hlink' : t.link ≠ .error := by
      rw [hlink, observedLink]
      split <;> simp_all
    simp [ReaderInv, hreader, hr, hlink']
  | kept hreceives hstart hends hreader hlink =>
    simp only [ReaderInv, hreader, hlink]
    refine ⟨hstopped, fun hne => ?_, hconnected⟩
    obtain ⟨hsync, hfb, _⟩ := exec_framer_eq_of_not_running h hne
    rw [hsync, hfb]
    exact hidle hne

/-- Every instruction keeps the invariants of R26. -/
theorem exec_stateInv (i : Instr) (s t : State) (hinv : StateInv s) (h : exec i s = .next t) : StateInv t := by
  obtain ⟨hframer, hslot, hcapacity, hreader⟩ := hinv
  exact ⟨exec_framerInv hframer h, exec_slotInv hslot h, exec_capacityInv hcapacity h, exec_readerInv hreader h⟩

/-- Settles O3: each unit's part of the invariant is kept by every instruction, and none speaks of the input. -/
theorem stepKeepsTheStateInvariants : Obligations.StepKeepsTheStateInvariants := by
  unfold Obligations.StepKeepsTheStateInvariants
  intro s t hinv h
  exact step_keeps (fun _ _ hs => hs) exec_stateInv hinv h

/-! ### DISCONNECTED -/

/-- An instruction that does not end a running reader keeps whether it has stopped (R101). -/
theorem exec_stopped_iff {i : Instr} {s t : State} (h : exec i s = .next t)
    (hends : endsReader i = true → s.reader ≠ .running) : t.reader = .stopped ↔ s.reader = .stopped := by
  obtain ⟨_, hidle, hrunning, hstopped⟩ := readerMovesOnlyByItsTable.2 i s t h
  cases hr : s.reader with
  | idle => rw [hidle hr]; split <;> simp
  | running => rw [hrunning hr, if_neg (fun he => hends he hr)]
  | stopped => simp [hstopped hr]

/-- Emitting no DISCONNECTED is right as long as the reader has not newly stopped (R108). -/
theorem disconnectedOnce_of_out {s t : State} {evs : List OutEvent} (hinv : DisconnectedOnce s)
    (hstopped : t.reader = .stopped ↔ s.reader = .stopped) (hout : t.out = s.out ++ evs)
    (hmem : .disconnected ∉ evs) : DisconnectedOnce t := by
  have hcount : evs.count .disconnected = 0 := List.count_eq_zero_of_not_mem hmem
  simpa only [DisconnectedOnce, hstopped, ne_eq, hout, List.count_append, hcount, Nat.add_zero, List.mem_append, hmem,
    or_false] using hinv

/-- Only a termination emits DISCONNECTED, once, and only it stops the reader (R106, R108). -/
theorem exec_disconnectedOnce (i : Instr) (s t : State) (hinv : DisconnectedOnce s) (h : exec i s = .next t) :
    DisconnectedOnce t := by
  cases exec_emitted h with
  | reports hends hrep =>
    obtain ⟨evs, hout, _, hevs⟩ := hrep
    exact disconnectedOnce_of_out hinv (exec_stopped_iff h hends) hout (disconnected_notMem_of_reports hevs)
  | request cmd data _ hends _ hout =>
    exact disconnectedOnce_of_out hinv (exec_stopped_iff h (by simp [hends])) hout (by simp)
  | termination evs hends hr hrep hout =>
    have hbefore : s.out.count .disconnected = 0 := List.count_eq_zero_of_not_mem (hinv.2 (by simp [hr]))
    have hreports : evs.count .disconnected = 0 :=
      List.count_eq_zero_of_not_mem (disconnected_notMem_of_reports hrep)
    have hreader : t.reader = .stopped :=
      ((readerMovesOnlyByItsTable.2 i s t h).2.2.1 hr).trans (if_pos hends)
    simp [DisconnectedOnce, hreader, hout, hbefore, hreports]

/-- Settles O4: DISCONNECTED is the mark of the one termination a reader can have. -/
theorem stepKeepsDisconnectedOnce : Obligations.StepKeepsDisconnectedOnce := by
  unfold Obligations.StepKeepsDisconnectedOnce
  intro s t hinv h
  exact step_keeps (fun _ _ hs => hs) exec_disconnectedOnce hinv h

/-! ### Requests -/

/-- An instruction's TX event is one whole request of at most 253 data bytes (R84, R134). -/
theorem exec_onlyRequestsSent (i : Instr) (s t : State) (hinv : OnlyRequestsSent s) (h : exec i s = .next t) :
    OnlyRequestsSent t := by
  intro bytes hmem
  cases exec_emitted h with
  | reports hends hrep =>
    obtain ⟨evs, hout, _, hevs⟩ := hrep
    rw [hout, List.mem_append, or_iff_left (tx_notMem_of_reports hevs bytes)] at hmem
    exact hinv bytes hmem
  | request cmd data _ _ hl hout =>
    rw [hout, List.mem_append, List.mem_singleton, OutEvent.tx.injEq] at hmem
    exact hmem.elim (hinv bytes) fun heq => ⟨cmd, data, hl, heq⟩
  | termination evs _ _ hrep hout =>
    rw [hout, List.append_assoc, List.mem_append, List.mem_append,
      or_iff_right (tx_notMem_of_reports hrep bytes)] at hmem
    exact hmem.elim (hinv bytes) (by simp)

/-- Settles O5: what an instruction transmits is a request, and a step runs one instruction. -/
theorem stepSendsOnlyRequestFrames : Obligations.StepSendsOnlyRequestFrames := by
  unfold Obligations.StepSendsOnlyRequestFrames
  intro s t hinv h
  exact step_keeps (fun _ _ hs => hs) exec_onlyRequestsSent hinv h

/-! ### The header -/

/-- A header is built from a candidate without newlines, and what follows it lies beyond its nine bytes (R66, D3). -/
theorem exec_rxByte_headerInv {b : Byte} {s t : State} (hframer : FramerInv s) (hheader : HeaderInv s)
    (h : exec (.rxByte b) s = .next t) : HeaderInv t := by
  obtain ⟨_, hproto, _, hunknown⟩ := hframer
  obtain ⟨_, hcases⟩ := execRxByte_cases h
  rcases hcases with ⟨_, _, rfl⟩ | ⟨_, _, rfl⟩ | ⟨_, _, _, hd⟩ | ⟨hs, _, _, rfl⟩ | ⟨_, _, _, rfl⟩ | ⟨hs, _, _, rfl⟩ |
    ⟨hs, _, _, _, rfl⟩ | ⟨hs, hb, _, _, rfl⟩ | ⟨_, _, _, _, rfl⟩
  · simp [HeaderInv]
  · exact hheader
  · simp [HeaderInv, (deliver_next hd).framer_eq.1]
  · intro _
    rw [List.take_append_of_le_length (hproto hs).1]
    exact hheader hs
  · exact hheader
  · simp [HeaderInv, hs]
  · simp [HeaderInv, hs]
  · intro _ hmem
    have := List.mem_of_mem_take hmem
    simp [(hunknown hs).2, Ne.symm hb] at this
  · simp [HeaderInv]

/-- Every instruction keeps the header invariant. -/
theorem exec_headerInv {i : Instr} {s t : State} (hframer : FramerInv s) (hheader : HeaderInv s)
    (h : exec i s = .next t) : HeaderInv t := by
  by_cases hbyte : ∃ b, i = .rxByte b
  · obtain ⟨b, rfl⟩ := hbyte
    exact exec_rxByte_headerInv hframer hheader h
  · cases hends : endsReader i with
    | true =>
      rcases exec_endsReader h hends with ⟨_, rfl⟩ | ⟨_, rfl⟩
      · simp [HeaderInv]
      · exact hheader
    | false =>
      obtain ⟨hsync, hfb, _⟩ := exec_framer_eq h (not_exists.1 hbyte) hends
      simpa only [HeaderInv, hsync, hfb] using hheader

/-- A header without newlines has a length byte other than 0x0A (R130). -/
theorem expLen_ne_twenty {s : State} (hframer : FramerInv s) (hheader : HeaderInv s) : s.expLen ≠ 20 := by
  intro h20
  obtain ⟨hiff, hproto, _⟩ := hframer
  have hs : s.sync = .proto := hiff.2 (by simp [h20])
  obtain ⟨h9, _, he, _⟩ := hproto hs
  have hlen : s.fb.getD 8 0x00 = newline := by
    apply BitVec.eq_of_toNat_eq
    have : newline.toNat = 10 := rfl
    omega
  apply hheader hs
  rw [← hlen, List.getD_eq_getElem _ _ (by omega)]
  exact List.mem_take_iff_getElem.2 ⟨8, by omega, rfl⟩

/-- Settles O6: the header invariant is kept beside R26's, and the two exclude the length byte 0x0A. -/
theorem frameOfPayloadLengthTenIsNeverReceived : Obligations.FrameOfPayloadLengthTenIsNeverReceived := by
  unfold Obligations.FrameOfPayloadLengthTenIsNeverReceived
  constructor
  · intro s t hinv hheader h
    have hkept : FramerInv t ∧ HeaderInv t :=
      step_keeps (P := fun s => FramerInv s ∧ HeaderInv s) (fun _ _ hs => hs)
        (fun i s t hs h => ⟨exec_framerInv hs.1 h, exec_headerInv hs.1 hs.2 h⟩) ⟨hinv.1, hheader⟩ h
    exact hkept.2
  · intro s hinv hheader
    exact expLen_ne_twenty hinv.1 hheader

/-- Settles O2: the reset state's framer and slot are empty, its reader is idle, its link is CONNECTING and it has
emitted nothing. -/
theorem resetMeetsTheInvariants : Obligations.ResetMeetsTheInvariants := by
  unfold Obligations.ResetMeetsTheInvariants
  have hslot : SlotInv State.reset := ⟨fun _ => rfl, nofun⟩
  have hcapacity : CapacityInv State.reset := fun n _ => Nat.zero_le n
  have hreader : ReaderInv State.reset := ⟨by decide, fun _ => ⟨rfl, rfl⟩, nofun⟩
  have hstate : StateInv State.reset := ⟨framerInv_of_empty nofun rfl rfl, hslot, hcapacity, hreader⟩
  exact ⟨hstate, nofun, ⟨nofun, fun _ => List.not_mem_nil⟩, nofun⟩

end Sys2Proof.Machine
end

section
/-! Taking an input event (spec/00_scope.md R11, spec/30_encoding.md R58 to R60, spec/40_framer.md R65): which event is
next, and what a step makes of it. -/

namespace Sys2Proof.Machine

/-- A step runs the next event's instruction (R11). -/
theorem step_of_nextInput {s : State} {w : InputWord} {rest : List InputWord} {i : Instr}
    (hnext : nextInput s.reader s.input = some (w, rest)) (hi : decode (.event w) = .ok i) :
    step s = exec i (takeInput rest s) := by
  simp only [step, hnext, hi]

/-- An event at the head that is not made to wait is the next one (R65). -/
theorem nextInput_cons_of_enabled {r : Reader} {w : InputWord} (rest : List InputWord)
    (h : r = .running ∨ isReceive w = false) : nextInput r (w :: rest) = some (w, rest) :=
  if_pos h

/-- Settles O9: an enabled event at the head is the one taken. -/
theorem stepRunsTheDecodedEvent : Obligations.StepRunsTheDecodedEvent := by
  unfold Obligations.StepRunsTheDecodedEvent
  intro s w rest i hinput henabled hi
  exact step_of_nextInput (hinput ▸ nextInput_cons_of_enabled rest henabled) hi

section
variable {r : Reader} {held : List InputWord}

/-- Receive events that wait stay in front of the host event behind them (R65, R126). -/
theorem nextInput_held_append (hr : r ≠ .running) (hheld : ∀ h ∈ held, isReceive h = true) {w : InputWord}
    (hw : isReceive w = false) (rest : List InputWord) :
    nextInput r (held ++ w :: rest) = some (w, held ++ rest) := by
  induction held with
  | nil => exact nextInput_host r w rest hw
  | cons h held ih =>
    obtain ⟨hh, htail⟩ := List.forall_mem_cons.1 hheld
    rw [List.cons_append, nextInput_waits hr h _ hh, ih htail]
    rfl

/-- With nothing but receive events there is none to take (R65). -/
theorem nextInput_held (hr : r ≠ .running) (hheld : ∀ h ∈ held, isReceive h = true) : nextInput r held = none := by
  induction held with
  | nil => rfl
  | cons h held ih =>
    obtain ⟨hh, htail⟩ := List.forall_mem_cons.1 hheld
    rw [nextInput_waits hr h _ hh, ih htail]
    rfl

end

/-- Settles O10: the receive events are passed over in order, and alone they leave the block waiting. -/
theorem receiveEventsWaitWhileNotRunning : Obligations.ReceiveEventsWaitWhileNotRunning := by
  unfold Obligations.ReceiveEventsWaitWhileNotRunning
  intro s hr
  refine ⟨fun b => if_neg hr, ?_, ?_⟩
  · intro hinput hheld
    simp only [step, nextInput_held hr hheld, waitReason, if_neg hinput]
  · intro held rest w i hinput hheld hw hi
    exact step_of_nextInput (hinput ▸ nextInput_held_append hr hheld hw rest) hi

/-- A reserved code is the host port's: only 0x0 and 0x1 are receive events (R30, R60). -/
theorem isReceive_of_reserved {w : InputWord} (h : 8 ≤ w.code.toNat) : isReceive w = false := by
  refine Bool.or_eq_false_iff.2 ⟨beq_eq_false_iff_ne.2 ?_, beq_eq_false_iff_ne.2 ?_⟩ <;> intro hc <;> simp [hc] at h

/-- A reserved code decodes to nothing, whatever its operands (R60). -/
theorem decodeEvent_of_reserved {w : InputWord} (h : 8 ≤ w.code.toNat) : decodeEvent w = .error .reservedCode := by
  unfold decodeEvent
  split
  case h_9 => exact if_neg (Nat.not_lt.2 h)
  all_goals omega

/-- Settles O11: the event is taken even while the reader is not running, and its code names no row. -/
theorem reservedEventCodesAreRefused : Obligations.ReservedEventCodesAreRefused := by
  unfold Obligations.ReservedEventCodesAreRefused
  intro s w rest hinput hcode
  have hnext := nextInput_host s.reader w rest (isReceive_of_reserved hcode)
  simp only [step, hinput, hnext, decode, decodeEvent_of_reserved hcode, refusalOf]

end Sys2Proof.Machine
end

section
/-! Decoding what was encoded (spec/30_encoding.md R45, R52, R58): instructions, and the rows a frame stands for. -/

namespace Sys2Proof

/-- A request's payload fits a frame (R84). -/
theorem rpcPayload_length_le (cmd : Byte) {data : List Byte} (h : data.length ≤ 253) :
    (rpcPayload cmd data).length ≤ 255 := by
  simp only [rpcPayload, List.length_append, List.length_cons, List.length_nil]
  omega

/-- An encoded request is read as its command's row (R52, R64, R84). -/
theorem decodeTxFrame_encodeRpc (cmd : Byte) {data : List Byte} (h : data.length ≤ 253) :
    decodeTxFrame (encodeRpc cmd data) = txRow cmd data := by
  have hmagic : (encodeRpc cmd data).take 6 = magic := frameWith_take_magic ..
  have hfields : frameOperands (encodeRpc cmd data) =
      some ⟨version, typeRpc, rpcPayload cmd data, sum8 (frameBody typeRpc (rpcPayload cmd data))⟩ :=
    frameOperands_frameWith _ _ _ (rpcPayload_length_le cmd h)
  have hlen : (BitVec.ofNat 8 data.length).toNat = data.length := Machine.toNat_lengthByte (by omega)
  simp [decodeTxFrame, hmagic, hfields, rpcPayload, hlen]

/-- A received row's frame decodes to it (R48, R64). -/
theorem decode_rxFrame {t : Byte} {p : List Byte} {c : Byte} {i : Instr} (hl : payloadFits p = true)
    (hrow : rxRow t p c = .ok i) : decode (.rxFrame (frameWith t p c)) = .ok i :=
  decodeRxFrame_ok_iff.2 ⟨t, p, c, rfl, of_decide_eq_true hl, hrow⟩

/-- A transmitted row's frame decodes to it (R52, R64). -/
theorem decode_txFrame {cmd : Byte} {data : List Byte} {i : Instr} (hl : dataFits data = true)
    (hrow : txRow cmd data = .ok i) : decode (.txFrame (encodeRpc cmd data)) = .ok i :=
  (decodeTxFrame_encodeRpc cmd (of_decide_eq_true hl)).trans hrow

/-- Settles O7: an event's code and operands determine it, and a frame's type or command its row. -/
theorem decodeOfEncodeIsTheInstruction : Obligations.DecodeOfEncodeIsTheInstruction := by
  unfold Obligations.DecodeOfEncodeIsTheInstruction
  intro i hwf
  cases i with
  | rxByte b | rxEnd | start | close | issueOne cmd data | issueMany cmd data | timeout | abandon => rfl
  | currentState p c | errorState p c | rpc p c | rpcResult p c => exact decode_rxFrame hwf rfl
  | txSendWifiSettings data | txRequestCurrentState data | txRequestInfo data | txRequestWifiNetworks data =>
    exact decode_txFrame hwf rfl

/-- Settles O8: the words are the encodings of these instructions. -/
theorem writtenOutWordsDecodeToTheirInstructions : Obligations.WrittenOutWordsDecodeToTheirInstructions := by
  unfold Obligations.WrittenOutWordsDecodeToTheirInstructions
  have hdecode := decodeOfEncodeIsTheInstruction
  exact ⟨hdecode (.rxByte 0x49) rfl, hdecode .start rfl, hdecode (.issueMany 0x04 [0xAA]) rfl,
    hdecode (.currentState [0x02] 0xE2) rfl, hdecode (.errorState [0x03] 0xE4) rfl,
    hdecode (.rpc [0x03, 0x00] 0xE6) rfl, hdecode (.rpcResult [0x04, 0x00] 0xE8) rfl, hdecode (.txRequestInfo []) rfl,
    hdecode (.txSendWifiSettings [0x04, 0x48, 0x6F, 0x6D, 0x65, 0x06, 0x73, 0x65, 0x63, 0x72, 0x65, 0x74]) rfl⟩

end Sys2Proof

namespace Sys2Proof.Machine

/-- The row of an assigned type is that type's received frame (R48, R67). -/
theorem exec_of_rxRow {t : Byte} {p : List Byte} {c : Byte} {i : Instr} (h : rxRow t p c = .ok i) (s : State) :
    exec i s = receiveFrame t p c s := by
  unfold rxRow at h
  split_ifs at h <;> obtain rfl := Except.ok.inj h <;> subst t <;> rfl

/-- The row of a named command is the transmission of that command (R52, R84). -/
theorem exec_of_txRow {cmd : Byte} {data : List Byte} {i : Instr} (h : txRow cmd data = .ok i) (s : State) :
    exec i s = transmitRequest cmd data s := by
  unfold txRow at h
  split_ifs at h <;> obtain rfl := Except.ok.inj h <;> subst cmd <;> rfl

/-- Settles O14: both deliver the frame from a reset framer. -/
theorem completedFrameRunsItsTableRow : Obligations.CompletedFrameRunsItsTableRow := by
  unfold Obligations.CompletedFrameRunsItsTableRow
  intro b s i hr hs hcap hlen hdecode
  obtain ⟨t, p, c, hframe, _, hrow⟩ := decodeRxFrame_ok_iff.1 hdecode
  calc exec (.rxByte b) s
    _ = deliver (frameWith t p c) (framerReset s) := by rw [exec_rxByte_completes hr hs hcap hlen, hframe]
    _ = receiveFrame t p c (framerReset s) := (receiveFrame_running (s := framerReset s) hr).symm
    _ = exec i (framerReset s) := (exec_of_rxRow hrow _).symm

/-- An accepted issue is the transmission of its request from a slot already set (R94). -/
theorem issueCommon_accepted (shape : Shape) (cmd : Byte) {data : List Byte} {s : State} (hfree : s.pendKind = .none)
    (hr : s.reader ≠ .stopped) (hl : data.length ≤ maxData) :
    .next (issueCommon shape cmd data s) =
      transmitRequest cmd data
        { s with pendKind := kindOf shape, pendCmd := cmd, pendRecs := [], status := some .accepted } := by
  rw [issueCommon_eq, if_neg (not_not_intro hfree), if_neg (Nat.not_lt.2 hl), if_neg hr]
  exact (if_pos hl).symm

/-- Settles O33: the issue and the row transmit the same request. -/
theorem acceptedIssueRunsItsTransmitRow : Obligations.AcceptedIssueRunsItsTransmitRow := by
  unfold Obligations.AcceptedIssueRunsItsTransmitRow
  intro cmd data s i hdecode hfree hr hl
  have hrow : txRow cmd data = .ok i := (decodeTxFrame_encodeRpc cmd hl).symm.trans hdecode
  exact ⟨(issueCommon_accepted .one cmd hfree hr hl).trans (exec_of_txRow hrow _).symm,
    (issueCommon_accepted .many cmd hfree hr hl).trans (exec_of_txRow hrow _).symm⟩

/-- Within R84's bound a request is one TX event. -/
theorem transmitRequest_fits (cmd : Byte) {data : List Byte} (h : data.length ≤ maxData) (s : State) :
    transmitRequest cmd data s = .next (txWrite (encodeRpc cmd data) s) :=
  if_pos h

/-- Beyond R84's bound a request is refused. -/
theorem transmitRequest_tooLong (cmd : Byte) {data : List Byte} (h : maxData < data.length) (s : State) :
    transmitRequest cmd data s = .refused .encodePrecondition :=
  if_neg (Nat.not_le.2 h)

/-- Settles O32: the four rows are transmissions of their commands. -/
theorem transmitRowsWriteOneRequestFrame : Obligations.TransmitRowsWriteOneRequestFrame := by
  unfold Obligations.TransmitRowsWriteOneRequestFrame
  intro data s sent
  constructor <;> intro h
  · have hsent := fun cmd => transmitRequest_fits cmd h s
    exact ⟨hsent _, hsent _, hsent _, hsent _⟩
  · have hrefused := fun cmd => transmitRequest_tooLong cmd h s
    exact ⟨hrefused _, hrefused _, hrefused _, hrefused _⟩

/-- Settles O24: the four received rows are receive events. -/
theorem receivedFramesNeedARunningReader : Obligations.ReceivedFramesNeedARunningReader := by
  unfold Obligations.ReceivedFramesNeedARunningReader
  intro p c s hr
  have hwaits (t : Byte) : receiveFrame t p c s = .fault .receiveWaits := if_neg hr
  exact ⟨hwaits _, hwaits _, hwaits _, hwaits _⟩

/-- Settles O37: with a turn for every byte, R80's loop parses exactly what the fields tile. -/
theorem parsedFieldsTileTheirBytes : Obligations.ParsedFieldsTileTheirBytes :=
  fun _ _ => parseFields_eq_some_iff

/-- A request's payload decodes to its command and data (R52, R78). -/
theorem decodePayload_rpcPayload (cmd : Byte) {data : List Byte} (h : data.length ≤ 253) :
    decodePayload typeRpc (rpcPayload cmd data) = .packet (.rpc cmd data) := by
  refine decodePayload_rpc ⟨?_, ?_⟩
  · simp [rpcPayload]
  · simp [rpcPayload]; omega

/-- Settles O36: an encoded frame's checksum is right, and each payload is the one its type asks for. -/
theorem decodeOfEncodedFrameIsThePacket : Obligations.DecodeOfEncodedFrameIsThePacket := by
  unfold Obligations.DecodeOfEncodedFrameIsThePacket
  refine ⟨fun v => ?_, fun e => ?_, fun cmd data hl => ?_, fun cmd fs hfs hl => ?_⟩
  · exact (decodeFrame_encodeFrame typeCurrentState [v] (by simp)).trans (decodePayload_state v)
  · exact (decodeFrame_encodeFrame typeErrorState [e] (by simp)).trans (decodePayload_error e)
  · exact (decodeFrame_encodeFrame _ _ (rpcPayload_length_le cmd hl)).trans (decodePayload_rpcPayload cmd hl)
  · have hl' := resultPayload_length_le cmd hl
    exact (decodeFrame_encodeFrame typeRpcResult _ hl').trans (decodePayload_result hl' hfs rfl)

end Sys2Proof.Machine
end

section
/-! The checksum (spec/41_codec.md R74, R86): the byte sum as a sum of bytes, and what a changed byte does to it. -/

namespace Sys2Proof

@[simp] theorem sum8_nil : sum8 [] = 0 := rfl

/-- The checksum of a longer sequence, carries discarded (R74). -/
@[simp] theorem sum8_cons (x : Byte) (xs : List Byte) : sum8 (x :: xs) = x + sum8 xs := by
  simp [sum8, BitVec.ofNat_add]

/-- The 8-bit accumulator of R74, from any start. -/
theorem foldl_add_eq (xs : List Byte) (acc : Byte) : xs.foldl (fun acc x => acc + x) acc = acc + sum8 xs := by
  induction xs generalizing acc with
  | nil => simp
  | cons x xs ih => rw [List.foldl_cons, ih, sum8_cons, BitVec.add_assoc]

/-- Each byte adds at most 255. -/
theorem sum_toNat_le (xs : List Byte) : (xs.map BitVec.toNat).sum ≤ xs.length * 255 := by
  have hle : ∀ n ∈ xs.map BitVec.toNat, n ≤ 255 := by
    simp only [List.mem_map, forall_exists_index, and_imp, forall_apply_eq_imp_iff₂]
    exact fun x _ => Nat.le_of_lt_succ x.isLt
  simpa using List.sum_le_card_nsmul _ 255 hle

/-- Settles O35: the natural sum is reduced once, at the end or byte by byte. -/
theorem checksumIsTheByteSumModulo256 : Obligations.ChecksumIsTheByteSumModulo256 := by
  unfold Obligations.ChecksumIsTheByteSumModulo256
  intro xs
  refine ⟨BitVec.toNat_ofNat .., ?_, fun hlen => ?_⟩
  · rw [foldl_add_eq]; simp
  · have := sum_toNat_le xs; omega

/-- Any change of one byte changes the checksum (R74, R86). -/
theorem sum8_set_ne {xs : List Byte} {k : Nat} {x y : Byte} (hk : xs[k]? = some x) (hne : y ≠ x) :
    sum8 (xs.set k y) ≠ sum8 xs := by
  induction xs generalizing k with
  | nil => simp at hk
  | cons z zs ih =>
    cases k with
    | zero =>
      obtain rfl : z = x := by simpa using hk
      simpa using hne
    | succ k => simpa using ih (by simpa using hk)

/-- A flipped bit changes the byte. -/
theorem xor_twoPow_ne (x : Byte) {j : Nat} (hj : j < 8) : x ^^^ BitVec.twoPow 8 j ≠ x := by
  intro h
  have := congrArg (fun y => BitVec.getLsbD y j) h
  simp [hj] at this

end Sys2Proof

namespace Sys2Proof.Machine

/-- As many bytes as the length byte says are a frame (R46). -/
theorem frameOperands_of_length {f : List Byte} (h : f.length = 10 + (f.getD 8 0x00).toNat) :
    ∃ r, frameOperands f = some r := by
  have hcons : f.drop 6 = f[6] :: f[7] :: f[8] :: f.drop 9 := by
    iterate 3 rw [List.drop_eq_getElem_cons (by omega)]
  rw [List.getD_eq_getElem _ _ (by omega)] at h
  have hone : ((f.drop 9).drop f[8].toNat).length = 1 := by
    rw [List.length_drop, List.length_drop]; omega
  obtain ⟨c, hc⟩ := List.length_eq_one_iff.1 hone
  exact ⟨⟨f[6], f[7], (f.drop 9).take f[8].toNat, c⟩, by simp only [frameOperands, hcons, hc]⟩

/-- The number of a frame's bytes (R46). -/
theorem length_of_frameOperands {f : List Byte} {r : RawFrame} (h : frameOperands f = some r) :
    f.length = 10 + (f.getD 8 0x00).toNat ∧ f.length = 10 + r.payload.length := by
  obtain ⟨hdrop, hl⟩ := frameOperands_some_iff.1 h
  have hlen := congrArg List.length hdrop
  simp only [List.length_drop, List.length_cons, List.length_append, List.length_nil] at hlen
  have h8 : f.getD 8 0x00 = (f.drop 6).getD 2 0x00 := by simp [List.getD]
  rw [h8, hdrop, List.getD_cons_succ, List.getD_cons_succ, List.getD_cons_zero, toNat_lengthByte hl]
  omega

/-- The check compares the last byte with the sum of those before it (R55, R75). -/
theorem checksumOk_concat {body : List Byte} {c : Byte} {r : RawFrame} (h : frameOperands (body ++ [c]) = some r) :
    checksumOk (body ++ [c]) r = (c == sum8 body) := by
  have hlen : body.length = 9 + r.payload.length := by
    have := (length_of_frameOperands h).2
    simp only [List.length_append, List.length_singleton] at this; omega
  have hdrop := (frameOperands_some_iff.1 h).1
  rw [List.drop_append_of_le_length (by omega)] at hdrop
  have hc : [c] = [r.checksum] :=
    List.append_inj_right' (s₂ := r.version :: r.type :: BitVec.ofNat 8 r.payload.length :: r.payload) hdrop rfl
  rw [checksumOk, ← hlen, List.take_left' rfl, List.singleton_inj.1 hc]

/-- Frame bytes whose last is not the sum of the others are dropped (R75). -/
theorem decodeFrame_concat_badChecksum {body : List Byte} {c : Byte}
    (hlen : (body ++ [c]).length = 10 + ((body ++ [c]).getD 8 0x00).toNat) (hc : c ≠ sum8 body) :
    decodeFrame (body ++ [c]) = .drop .checksumMismatch := by
  obtain ⟨r, hr⟩ := frameOperands_of_length hlen
  simp [decodeFrame, hr, checksumOk_concat hr, hc]

/-- Any change of one byte other than the length byte makes the checksum wrong (R86). -/
theorem decodeFrame_set_ne {f : List Byte} {r : RawFrame} {k : Nat} {y : Byte} (hframe : frameOperands f = some r)
    (hsum : checksumOk f r = true) (hk8 : k ≠ 8) (hk : k < f.length) (hne : y ≠ f[k]) :
    decodeFrame (f.set k y) = .drop .checksumMismatch := by
  have hlen := (length_of_frameOperands hframe).1
  have hlen' : (f.set k y).length = 10 + ((f.set k y).getD 8 0x00).toNat := by
    simpa [List.getD, List.getElem?_set_ne hk8] using hlen
  obtain ⟨body, c, rfl⟩ : ∃ body c, f = body ++ [c] :=
    ⟨_, _, (List.dropLast_append_getLast (List.ne_nil_of_length_pos (by omega))).symm⟩
  obtain rfl : c = sum8 body := by simpa [checksumOk_concat hframe] using hsum
  by_cases hlast : k = body.length
  · -- the checksum byte itself
    subst hlast
    rw [List.set_append_right _ _ le_rfl] at hlen' ⊢
    simp only [Nat.sub_self, List.set_cons_zero] at hlen' ⊢
    exact decodeFrame_concat_badChecksum hlen' (by simpa using hne)
  · -- a byte under the sum
    have hlt : k < body.length := by
      simp only [List.length_append, List.length_singleton] at hk; omega
    rw [List.getElem_append_left hlt] at hne
    rw [List.set_append_left _ _ hlt] at hlen' ⊢
    exact decodeFrame_concat_badChecksum hlen' (sum8_set_ne (List.getElem?_eq_getElem hlt) hne).symm

/-- Settles O38: a flipped bit is a changed byte, and none of these offsets is the length byte's. -/
theorem singleBitFlipIsAChecksumMismatch : Obligations.SingleBitFlipIsAChecksumMismatch := by
  unfold Obligations.SingleBitFlipIsAChecksumMismatch
  intro f r k j hframe hsum hoffset hk hj
  refine decodeFrame_set_ne hframe hsum (by omega) hk ?_
  rw [List.getD_eq_getElem _ _ hk]
  exact xor_twoPow_ne _ hj

end Sys2Proof.Machine
end

section
/-! The frame buffer's reads and writes (spec/00_scope.md R10, spec/20_memory.md R34). -/

namespace Sys2Proof.Machine

/-- A byte read answers as the sequence does at that offset. -/
theorem memRead_one_congr {m m' : Memory} {k : Nat} (h : m'[k]? = m[k]?) : memRead m' k 1 = memRead m k 1 := by
  rw [memRead_one, memRead_one, h]

/-- What was written is read back (R10). -/
theorem memRead_memWrite {m m' : Memory} {addr : Nat} {v : List Byte} (h : memWrite m addr v = some m') :
    memRead m' addr v.length = some v := by
  obtain ⟨⟨haddr, _⟩, rfl⟩ := memWrite_some_iff.1 h
  have hlen : (m.take addr).length = addr := List.length_take_of_le haddr
  refine memRead_some_iff.2 ⟨?_, ?_⟩
  · simp only [List.length_append, hlen]; omega
  · rw [List.append_assoc, List.drop_left' hlen, List.take_left' rfl]

/-- Outside the bytes written the buffer reads as before (R10). -/
theorem memRead_memWrite_outside {m m' : Memory} {addr : Nat} {v : List Byte} (h : memWrite m addr v = some m')
    {k : Nat} (hk : k < addr ∨ addr + v.length ≤ k) : memRead m' k 1 = memRead m k 1 := by
  obtain ⟨⟨haddr, _⟩, rfl⟩ := memWrite_some_iff.1 h
  have hlen : (m.take addr).length = addr := List.length_take_of_le haddr
  apply memRead_one_congr
  rcases hk with hk | hk
  · rw [List.append_assoc, List.getElem?_append_left (by omega), List.getElem?_take_of_lt hk]
  · have hlen' : (m.take addr ++ v).length = addr + v.length := by rw [List.length_append, hlen]
    rw [List.getElem?_append_right (by omega), hlen', List.getElem?_drop, Nat.add_sub_cancel' hk]

/-- Settles O40: a write is taken in place. -/
theorem frameBufferReadsBackWhatWasWritten : Obligations.FrameBufferReadsBackWhatWasWritten := by
  unfold Obligations.FrameBufferReadsBackWhatWasWritten
  intro m m' addr v hwrite hwf
  exact ⟨memWrite_wf hwf hwrite, memRead_memWrite hwrite, fun _ => memRead_memWrite_outside hwrite⟩

/-- From `m` to `m'` the byte `b` was stored at offset `len(m)` and every other offset reads as before (R66). -/
def StoredAtEnd (b : Byte) (m m' : Memory) : Prop :=
  memRead m' m.length 1 = some [b] ∧ ∀ k, k ≠ m.length → memRead m' k 1 = memRead m k 1

theorem storedAtEnd_append (b : Byte) (m : Memory) : StoredAtEnd b m (m ++ [b]) := by
  constructor
  · simp [memRead_one]
  · intro k hk
    apply memRead_one_congr
    rcases Nat.lt_or_gt_of_ne hk with hk | hk
    · exact List.getElem?_append_left hk
    · rw [List.getElem?_eq_none (by simpa using hk), List.getElem?_eq_none (by omega)]

/-- Outside NONPROTO a received byte is stored behind the buffer, or the buffer ends up empty (R66). -/
theorem exec_rxByte_stores {b : Byte} {s t : State} (h : exec (.rxByte b) s = .next t) (hs : s.sync ≠ .nonproto)
    (hne : t.fb ≠ []) : StoredAtEnd b s.fb t.fb := by
  obtain ⟨_, hcases⟩ := execRxByte_cases h
  rcases hcases with ⟨hn, _⟩ | ⟨hn, _⟩ | ⟨_, _, _, hd⟩ | ⟨_, _, _, rfl⟩ | ⟨_, _, hfb, rfl⟩ | ⟨_, _, _, rfl⟩ |
    ⟨_, _, _, _, rfl⟩ | ⟨_, _, _, _, rfl⟩ | ⟨_, _, _, _, rfl⟩
  · exact absurd hn hs
  · exact absurd hn hs
  · exact absurd (deliver_next hd).framer_eq.2.1 hne
  · exact storedAtEnd_append b s.fb
  · exact absurd hfb hne
  · exact absurd rfl hne
  · exact storedAtEnd_append b s.fb
  · exact storedAtEnd_append b s.fb
  · exact absurd rfl hne

/-- In NONPROTO a received byte leaves the buffer as it is (R66). -/
theorem exec_rxByte_nonproto_fb {b : Byte} {s t : State} (h : exec (.rxByte b) s = .next t)
    (hs : s.sync = .nonproto) : t.fb = s.fb := by
  rw [exec_rxByte_nonproto (execRxByte_cases h).1 hs] at h
  obtain rfl := Host.Outcome.next.inj h
  unfold rxInLine
  split <;> rfl

/-- Settles O41: RX_BYTE stores at the end or empties the buffer, and the others leave the framer alone. -/
theorem onlyRxByteStoresIntoTheFrameBuffer : Obligations.OnlyRxByteStoresIntoTheFrameBuffer := by
  unfold Obligations.OnlyRxByteStoresIntoTheFrameBuffer
  constructor
  · intro b s t h
    exact ⟨fun hs k => by rw [exec_rxByte_nonproto_fb h hs], exec_rxByte_stores h⟩
  · intro i s t h hbyte hends k
    rw [(exec_framer_eq h hbyte hends).2.1]

end Sys2Proof.Machine
end

section
/-! Runs of received bytes (spec/40_framer.md R66 to R73): a line being discarded, a candidate header, a frame, and one
after another. -/

namespace Sys2Proof.Machine

/-- A run goes on from the state its first byte leads to. -/
theorem receive_cons {b : Byte} {s t : State} (h : exec (.rxByte b) s = .next t) (bs : List Byte) :
    receive (b :: bs) s = receive bs t := by
  simp only [receive, h]

/-- A run goes on from the state its first part leads to. -/
theorem receive_append {l : List Byte} {s t : State} (h : receive l s = .next t) (m : List Byte) :
    receive (l ++ m) s = receive m t := by
  induction l generalizing s with
  | nil =>
    obtain rfl := Host.Outcome.next.inj h
    rfl
  | cons b l ih =>
    rw [receive] at h
    split at h
    case h_1 u hu => rw [List.cons_append, receive_cons hu, ih h]
    all_goals cases h

/-- A run of one byte is that byte's step. -/
theorem receive_singleton (b : Byte) (s : State) : receive [b] s = exec (.rxByte b) s := by
  rw [receive]
  split <;> simp_all [receive]

/-- A line being discarded swallows its bytes (R69). -/
theorem receive_nonproto {bs : List Byte} {s : State} (hr : s.reader = .running) (hs : s.sync = .nonproto)
    (hnl : newline ∉ bs) : receive bs s = .next s := by
  induction bs with
  | nil => rfl
  | cons b bs ih =>
    obtain ⟨hb, hbs⟩ := List.ne_and_not_mem_of_not_mem_cons hnl
    have hignored : exec (.rxByte b) s = .next s := by
      rw [exec_rxByte_nonproto hr hs, rxInLine, if_neg (Ne.symm hb)]
    rw [receive_cons hignored, ih hbs]

/-- The newline ends the line being discarded (R66). -/
theorem receive_nonproto_newline {bs : List Byte} {s : State} (hr : s.reader = .running) (hs : s.sync = .nonproto)
    (hnl : newline ∉ bs) : receive (bs ++ [newline]) s = .next { s with sync := .unknown } := by
  rw [receive_append (receive_nonproto hr hs hnl), receive_singleton, exec_rxByte_nonproto hr hs]
  rfl

/-- Settles O18: neither the bytes of the line nor its newline do anything but end it. -/
theorem unterminatedLineSwallowsWhatFollows : Obligations.UnterminatedLineSwallowsWhatFollows := by
  unfold Obligations.UnterminatedLineSwallowsWhatFollows
  intro bs s hr hs hnl
  exact ⟨receive_nonproto hr hs hnl, receive_nonproto_newline hr hs hnl⟩

/-- Bytes short of EXPLEN are appended unexamined (R71). -/
theorem receive_proto {bs : List Byte} {s : State} (hr : s.reader = .running) (hs : s.sync = .proto)
    (hcap : s.expLen ≤ fbCap) (hlen : s.fb.length + bs.length < s.expLen) :
    receive bs s = .next { s with fb := s.fb ++ bs } := by
  induction bs generalizing s with
  | nil => simp [receive]
  | cons b bs ih =>
    rw [List.length_cons] at hlen
    have happended : exec (.rxByte b) s = .next { s with fb := s.fb ++ [b] } := by
      rw [exec_rxByte_proto hr hs, rxInFrame_eq b (by omega), if_neg (by omega)]
    have hlen' : (s.fb ++ [b]).length + bs.length < s.expLen := by
      simp only [List.length_append, List.length_singleton]; omega
    rw [receive_cons happended, ih (s := { s with fb := s.fb ++ [b] }) hr hs hcap hlen']
    simp

/-- Settles O17: by induction on the run, each byte falls short of EXPLEN. -/
theorem bytesInsideAFrameAreAppendedUnexamined : Obligations.BytesInsideAFrameAreAppendedUnexamined := by
  unfold Obligations.BytesInsideAFrameAreAppendedUnexamined
  intro bs s hr hs hcap hlen
  exact receive_proto hr hs hcap hlen

/-- Bytes short of a header are collected (R66). -/
theorem receive_candidate {bs : List Byte} {s : State} (hr : s.reader = .running) (hs : s.sync = .unknown)
    (hnl : newline ∉ bs) (hlen : s.fb.length + bs.length ≤ 8) :
    receive bs s = .next { s with fb := s.fb ++ bs } := by
  induction bs generalizing s with
  | nil => simp [receive]
  | cons b bs ih =>
    obtain ⟨hb, hbs⟩ := List.ne_and_not_mem_of_not_mem_cons hnl
    rw [List.length_cons] at hlen
    have happended : exec (.rxByte b) s = .next { s with fb := s.fb ++ [b] } := by
      rw [exec_rxByte_unknown hr hs, rxUnknown_append (Ne.symm hb) (by simp only [fbCap]; omega),
        headerDecision_of_length_ne (by simp only [hdrLen, List.length_append, List.length_singleton]; omega)]
    have hlen' : (s.fb ++ [b]).length + bs.length ≤ 8 := by
      simp only [List.length_append, List.length_singleton]; omega
    rw [receive_cons happended, ih (s := { s with fb := s.fb ++ [b] }) hr hs hbs hlen']
    simp

/-- The ninth byte of a line decides: a header, or a line to discard (R66). -/
theorem receive_header {h : List Byte} {s : State} (hr : s.reader = .running) (hs : s.sync = .unknown)
    (hfb : s.fb = []) (hnl : newline ∉ h) (hlen : h.length = 9) :
    receive h s = .next (
      if h.take 6 = magic then { s with fb := h, sync := .proto, expLen := 10 + (h.getD 8 0x00).toNat }
      else { s with fb := [], sync := .nonproto, out := s.out ++ [.drop .nonProtocol] }) := by
  obtain ⟨c, b, rfl⟩ : ∃ c b, h = c ++ [b] :=
    ⟨_, _, (List.dropLast_append_getLast (List.ne_nil_of_length_pos (by omega))).symm⟩
  have hc : c.length = 8 := by simpa using hlen
  obtain ⟨hnlc, hb⟩ : newline ∉ c ∧ newline ≠ b := by simpa using hnl
  have hcollected : receive c s = .next { s with fb := c } := by
    simpa [hfb] using receive_candidate hr hs hnlc (by simp [hfb, hc])
  have hninth : headerDecision { s with fb := c ++ [b] } = _ := headerDecision_ninth_byte (s := { s with fb := c }) b hc
  have hlast : (c ++ [b]).getD 8 0x00 = b := by simp [List.getD, ← hc]
  rw [receive_append hcollected, receive_singleton, exec_rxByte_unknown (s := { s with fb := c }) hr hs,
    rxUnknown_append hb.symm (by simp only [hc, fbCap]; omega), hninth, hlast]

/-- The framer between two lines, after some drops. -/
abbrev betweenLines (drops : List OutEvent) (s : State) : State :=
  { s with sync := .unknown, fb := [], out := s.out ++ drops }

/-- A line's drop: SHORT_LINE or NON_PROTOCOL (R66). -/
abbrev IsLineDrop (e : OutEvent) : Prop := e = .drop .shortLine ∨ e = .drop .nonProtocol

/-- A line that does not begin a header, and its newline, leave the framer between two lines (R70). -/
theorem receive_line {l : List Byte} {s : State} (hr : s.reader = .running) (hfb : s.fb = [])
    (hs : s.sync = .nonproto ∨ s.sync = .unknown) (hnl : newline ∉ l) (hline : ¬ (9 ≤ l.length ∧ l.take 6 = magic)) :
    ∃ drops, (∀ d ∈ drops, IsLineDrop d) ∧ receive (l ++ [newline]) s = .next (betweenLines drops s) := by
  rcases hs with hs | hs
  · exact ⟨[], nofun, by rw [receive_nonproto_newline hr hs hnl]; simp [betweenLines, hfb]⟩
  · by_cases h9 : 9 ≤ l.length
    · -- the first nine bytes are dropped, the rest discarded
      have hmagic : (l.take 9).take 6 ≠ magic := by
        rw [List.take_take]; exact fun hm => hline ⟨h9, hm⟩
      have hheader := receive_header hr hs hfb (fun hmem => hnl (List.mem_of_mem_take hmem))
        (List.length_take_of_le h9)
      rw [if_neg hmagic] at hheader
      refine ⟨[.drop .nonProtocol], by simp [IsLineDrop], ?_⟩
      rw [← List.take_append_drop 9 l, List.append_assoc, receive_append hheader]
      exact receive_nonproto_newline hr rfl (fun hmem => hnl (List.mem_of_mem_drop hmem))
    · have hcollected : receive l s = .next { s with fb := l } := by
        simpa [hfb] using receive_candidate hr hs hnl (by simp only [hfb, List.length_nil]; omega)
      refine ⟨if l = [] then [] else [.drop .shortLine], by split <;> simp [IsLineDrop], ?_⟩
      rw [receive_append hcollected, receive_singleton, exec_rxByte_unknown (s := { s with fb := l }) hr hs,
        rxUnknown_newline]
      by_cases hl : l = [] <;> simp [betweenLines, hs, hl]

/-- The framer with all but the last byte of a frame in it. -/
abbrev holdingFrame (f : List Byte) (s : State) : State :=
  { s with sync := .proto, fb := f.dropLast, expLen := f.length }

section
variable {f : List Byte} {s : State}

/-- Between two lines, a frame's bytes up to its last make a frame in reception (R66, R70). -/
theorem receive_frame_dropLast (hr : s.reader = .running) (hs : s.sync = .unknown) (hfb : s.fb = [])
    (hmagic : f.take 6 = magic) (hlen : f.length = 10 + (f.getD 8 0x00).toNat) (hnl : newline ∉ f.take 9) :
    receive f.dropLast s = .next (holdingFrame f s) := by
  have h9 : (f.take 9).length = 9 := List.length_take_of_le (by omega)
  have hheader := receive_header hr hs hfb hnl h9
  have h8 : (f.take 9).getD 8 0x00 = f.getD 8 0x00 := by simp [List.getD]
  have h6 : (f.take 9).take 6 = magic := by rw [List.take_take]; exact hmagic
  rw [if_pos h6, h8, ← hlen] at hheader
  have hsplit : f.dropLast = f.take 9 ++ f.dropLast.drop 9 := by
    conv_lhs => rw [← List.take_append_drop 9 f.dropLast]
    rw [List.dropLast_eq_take, List.take_take, Nat.min_eq_left (by omega)]
  have hcap : f.length ≤ fbCap := by
    have := (f.getD 8 0x00).isLt
    simp only [fbCap]; omega
  have hshort : (f.take 9).length + (f.dropLast.drop 9).length < f.length := by
    rw [h9, List.length_drop, List.length_dropLast]; omega
  rw [holdingFrame, hsplit, receive_append hheader]
  exact receive_proto (s := { s with sync := .proto, fb := f.take 9, expLen := f.length }) hr rfl hcap hshort

/-- Between two lines, a whole frame is delivered from a reset framer (R67, R70). -/
theorem receive_frame (hr : s.reader = .running) (hs : s.sync = .unknown) (hfb : s.fb = [])
    (hmagic : f.take 6 = magic) (hlen : f.length = 10 + (f.getD 8 0x00).toNat) (hnl : newline ∉ f.take 9) :
    receive f s = deliver f (framerReset s) := by
  have hne : f ≠ [] := List.ne_nil_of_length_pos (by omega)
  have hfull : f.dropLast.length + 1 = f.length := by rw [List.length_dropLast]; omega
  have hcap : f.dropLast.length < fbCap := by
    have := (f.getD 8 0x00).isLt
    simp only [fbCap]; omega
  calc receive f s
    _ = receive (f.dropLast ++ [f.getLast hne]) s := by rw [List.dropLast_append_getLast hne]
    _ = exec (.rxByte (f.getLast hne)) (holdingFrame f s) := by
      rw [receive_append (receive_frame_dropLast hr hs hfb hmagic hlen hnl), receive_singleton]
    _ = deliver (f.dropLast ++ [f.getLast hne]) (framerReset (holdingFrame f s)) :=
      exec_rxByte_completes hr rfl hcap hfull
    _ = deliver f (framerReset s) := by rw [List.dropLast_append_getLast hne]; rfl

end

/-- Settles O16: the line and its newline leave the framer between two lines, from where the frame is received. -/
theorem framerResynchronisesOnANewline : Obligations.FramerResynchronisesOnANewline := by
  unfold Obligations.FramerResynchronisesOnANewline
  intro s l f hr hfb hs hnl hline hmagic hlen hheader
  obtain ⟨drops, hdrops, hreceived⟩ := receive_line hr hfb hs hnl hline
  refine ⟨drops, hdrops, ?_, ?_⟩
  · exact (receive_append hreceived _).trans (receive_frame_dropLast hr rfl rfl hmagic hlen hheader)
  · exact (receive_append hreceived _).trans (receive_frame hr rfl rfl hmagic hlen hheader)

/-- Every payload is decoded or dropped (R75 to R80). -/
theorem decodePayload_ne_notAFrame (t : Byte) (p : List Byte) : decodePayload t p ≠ .notAFrame := by
  simp only [decodePayload, decodeState, decodeError, decodeRpc, decodeResult]
  split_ifs
  iterate 4 (· split <;> nofun)
  · nofun

/-- Bytes that are a frame are delivered (R67, R75). -/
theorem deliver_of_length {f : List Byte} (s : State) (h : f.length = 10 + (f.getD 8 0x00).toNat) :
    ∃ t, deliver f s = .next t := by
  obtain ⟨r, hr⟩ := frameOperands_of_length h
  have hframe : decodeFrame f ≠ .notAFrame := by
    simp only [decodeFrame, hr]
    split_ifs
    · nofun
    · nofun
    · exact decodePayload_ne_notAFrame _ _
  cases hd : decodeFrame f with
  | packet p => exact ⟨_, by rw [deliver, hd]⟩
  | drop r => exact ⟨_, by rw [deliver, hd]⟩
  | notAFrame => exact absurd hd hframe

/-- The header decision keeps the candidate or empties it (R66). -/
theorem headerDecision_fb_length_le (s : State) : (headerDecision s).fb.length ≤ s.fb.length := by
  unfold headerDecision
  split_ifs <;> simp

/-- Every received byte has a next state, within the buffer's bound (R72, R73). -/
theorem exec_rxByte_isNext {s : State} (hinv : FramerInv s) (hr : s.reader = .running) (b : Byte) :
    ∃ t, exec (.rxByte b) s = .next t ∧ t.fb.length ≤ 264 := by
  have ⟨_, hproto, hnonproto, hunknown⟩ := hinv
  cases hs : s.sync with
  | nonproto =>
    refine ⟨_, exec_rxByte_nonproto hr hs, ?_⟩
    rw [exec_rxByte_nonproto_fb (exec_rxByte_nonproto hr hs) hs, hnonproto hs]
    simp
  | proto =>
    obtain ⟨h9, hlt, he, hm⟩ := hproto hs
    have := (s.fb.getD 8 0x00).isLt
    have hcap : s.fb.length < fbCap := by simp only [fbCap]; omega
    rw [exec_rxByte_proto hr hs, rxInFrame_eq b hcap]
    split
    case isTrue hfull =>
      have hheader : (s.fb ++ [b]).getD 8 0x00 = s.fb.getD 8 0x00 := List.getD_append _ _ _ _ (by omega)
      obtain ⟨t, ht⟩ := deliver_of_length (f := s.fb ++ [b]) (framerReset s)
        (by rw [hheader, ← he, ← hfull]; simp)
      exact ⟨t, ht, by simp [(deliver_next ht).framer_eq.2.1]⟩
    case isFalse hshort =>
      refine ⟨_, rfl, ?_⟩
      simp only [List.length_append, List.length_singleton]; omega
  | unknown =>
    obtain ⟨h8, _⟩ := hunknown hs
    rw [exec_rxByte_unknown hr hs]
    by_cases hb : b = newline
    · exact ⟨_, hb ▸ rxUnknown_newline s, by simp⟩
    · have hnext := rxUnknown_append (b := b) hb (s := s) (by simp only [fbCap]; omega)
      have hle := headerDecision_fb_length_le { s with fb := s.fb ++ [b] }
      rw [List.length_append, List.length_singleton] at hle
      exact ⟨_, hnext, by omega⟩

/-- Settles O13: the invariant keeps the buffer below its capacity and makes what is delivered a frame. -/
theorem rxByteAlwaysCompletes : Obligations.RxByteAlwaysCompletes := by
  unfold Obligations.RxByteAlwaysCompletes
  intro b s hinv hr
  obtain ⟨t, ht, hlen⟩ := exec_rxByte_isNext hinv.1 hr b
  cases exec_emitted ht with
  | reports _ hrep =>
    obtain ⟨evs, hout, htwo, _⟩ := hrep
    exact ⟨t, evs, ht, hlen, hout, htwo⟩
  | request _ _ hreceives => cases hreceives
  | termination _ hends => cases hends

end Sys2Proof.Machine
end

section
/-! The session over all instructions (spec/10_state.md R19, R29, spec/42_correlator.md R97 to R99,
spec/60_exceptions.md R112): DEVSTATE, the write matrix, the pending call, and drops. -/

namespace Sys2Proof.Machine

/-- A delivered frame keeps DEVSTATE, or is a state packet and reports it (R89). -/
theorem Delivered.devState_eq_or_reported {s t : State} (h : Delivered s t) :
    t.devState = s.devState ∨ ∃ v, t.devState = some v ∧ t.out = s.out ++ [.stateEvt v] := by
  cases h with
  | state v ht => subst t; exact .inr ⟨v, rfl, rfl⟩
  | drop r ht | error e ht | errorFails e he hp ht | doneOne fs hp ht | doneMany hp ht | overflow hp hm ht
  | record fs hp hf hm ht => subst t; exact .inl rfl

/-- Only received input moves DEVSTATE, and only as R89 says (R19). -/
theorem exec_devState {i : Instr} {s t : State} (h : exec i s = .next t) :
    t.devState = s.devState ∨ (receives i = true ∧ ∃ v, t.devState = some v ∧ t.out = s.out ++ [.stateEvt v]) := by
  cases exec_next h with
  | completed b hi hr hs hl hd =>
    -- the framer's reset before the delivery changes neither DEVSTATE nor the outputs
    subst hi
    exact (deliver_next hd).devState_eq_or_reported.imp_right fun hreported => ⟨rfl, hreported⟩
  | delivered f hi hn hr hd =>
    exact (deliver_next hd).devState_eq_or_reported.imp_right fun hreported => ⟨hi, hreported⟩
  | terminated hi hr ht | timedOut hi ht => subst ht; exact .inl (by simp)
  | lineEnds hi hr hs ht | ignored b hi hr hs ht | appended b hi hr hl hs ht | header b hi hr hs hb hl hm ht
  | shortLine hi hr hs hf ht | nonProtocol b hi hr hs hl ht | started hi hr ht | noEffect hi ht
  | refused st hi hst hc ht | accepted shape cmd data hi hp hl hr ht | abandoned hi ht | sent cmd data hi hl ht =>
    subst ht; exact .inl rfl

/-- Settles O47: both ways DEVSTATE can stand after an instruction keep it valid. -/
theorem devStateChangesOnlyByStateFrame : Obligations.DevStateChangesOnlyByStateFrame := by
  unfold Obligations.DevStateChangesOnlyByStateFrame
  intro i s t h
  refine ⟨exec_devState h, fun hvalid => ?_⟩
  rcases exec_devState h with hsame | ⟨_, v, hv, _⟩
  · simpa only [devStateValid, hsame] using hvalid
  · simp only [devStateValid, hv, Option.isSome_some]

/-- START leaves the slot alone (R103). -/
theorem exec_start_slot_eq {s t : State} (h : exec .start s = .next t) :
    t.pendKind = s.pendKind ∧ t.pendRecs = s.pendRecs := by
  obtain rfl := Host.Outcome.next.inj h
  split <;> exact ⟨rfl, rfl⟩

/-- A reader's end leaves the slot alone unless P_REJECT_ON_DISCONNECT is set (R106, D15). -/
theorem exec_endsReader_slot_eq {i : Instr} {s t : State} (h : exec i s = .next t) (hends : endsReader i = true)
    (hreject : s.cfg.rejectOnDisconnect = false) : t.pendKind = s.pendKind ∧ t.pendRecs = s.pendRecs := by
  rcases exec_endsReader h hends with ⟨_, rfl⟩ | ⟨_, rfl⟩
  · simp [hreject]
  · exact ⟨rfl, rfl⟩

/-- Only START and the reader's ends move READER (R101). -/
theorem exec_reader_eq {i : Instr} {s t : State} (h : exec i s = .next t) (hends : endsReader i = false)
    (hstart : i ≠ .start) : t.reader = s.reader := by
  obtain ⟨_, hidle, hrunning, hstopped⟩ := readerMovesOnlyByItsTable.2 i s t h
  cases hr : s.reader with
  | idle => rw [hidle hr, if_neg hstart]
  | running => simp [hrunning hr, hends]
  | stopped => exact hstopped hr

/-- Only received input and the reader's ends move LINK (R107). -/
theorem exec_link_eq {i : Instr} {s t : State} (h : exec i s = .next t) (hreceives : receives i = false)
    (hends : endsReader i = false) : t.link = s.link := by
  rcases (linkMovesOnlyByItsTable i s t h).1 with hsame | ⟨_, _, hi, _⟩ | ⟨_, hi, _⟩
  · exact hsame
  · simp [hreceives] at hi
  · simp [hends] at hi

/-- Only received input and TIMEOUT move ERRCODE (R135). -/
theorem exec_errCode_eq {i : Instr} {s t : State} (h : exec i s = .next t) (hreceives : receives i = false)
    (htimeout : i ≠ .timeout) : t.errCode = s.errCode := by
  rcases exec_errCode h with hsame | ⟨hi, _⟩ | ⟨hi, _⟩
  · exact hsame
  · exact absurd hi htimeout
  · simp [hreceives] at hi

/-- Only received input moves DEVSTATE (R19). -/
theorem exec_devState_eq {i : Instr} {s t : State} (h : exec i s = .next t) (hreceives : receives i = false) :
    t.devState = s.devState :=
  (exec_devState h).resolve_right fun hi => by simp [hreceives] at hi

/-- Settles O39: the columns of R29's matrix, one lemma each. -/
theorem instructionsWriteOnlyTheirElements : Obligations.InstructionsWriteOnlyTheirElements := by
  unfold Obligations.InstructionsWriteOnlyTheirElements
  intro i s t h
  obtain ⟨hcfg, hinput⟩ := exec_cfg_input_eq h
  refine ⟨exec_framer_eq h, exec_devState_eq h, exec_errCode_eq h, exec_link_eq h, exec_reader_eq h,
    fun hi => (exec_issued_eq h hi).1, ?_, exec_endsReader_slot_eq h, hcfg, hinput, fun hi => (exec_issued_eq h hi).2⟩
  rintro rfl
  exact exec_start_slot_eq h

theorem filter_isCompletion_eq_nil {evs : List OutEvent} (h : ∀ e ∈ evs, isCompletion e = false) :
    evs.filter isCompletion = [] :=
  List.filter_eq_nil_iff.2 fun e he => by simp [h e he]

/-- Among events with one completion, that is the one. -/
theorem eq_of_isCompletion {front back : List OutEvent} {e x : OutEvent}
    (hfront : ∀ x ∈ front, isCompletion x = false) (hback : ∀ x ∈ back, isCompletion x = false)
    (hx : x ∈ front ++ e :: back) (hc : isCompletion x = true) : x = e := by
  rcases List.mem_append.1 hx with hx | hx
  · simp [hfront x hx] at hc
  · refine (List.mem_cons.1 hx).resolve_right fun hx => ?_
    simp [hback x hx] at hc

/-- Settles O44: each way the slot can move has the completions the statement gives it. -/
theorem completionsNameTheOnePendingCall : Obligations.CompletionsNameTheOnePendingCall := by
  unfold Obligations.CompletionsNameTheOnePendingCall
  intro i s t h
  cases exec_slotMove h with
  | kept evs hkind hrecs hout hevs =>
    refine ⟨evs, hout, ?_, fun _ => .inl hkind, ?_, by simp [filter_isCompletion_eq_nil hevs], ?_⟩
    · intro hfree hne; exact absurd (hkind.trans hfree) hne
    · intro e he hc; simp [hevs e he] at hc
    · intro hne hnone; exact absurd (hkind.symm.trans hnone) hne
  | recorded fs hr hmany hfs hroom hkind hrecs hout =>
    exact ⟨[], by simp [hout], by simp [hmany], fun _ => .inl hkind, nofun, by simp, by simp [hkind, hmany]⟩
  | filled bytes hi hfree hst hrecs hout =>
    exact ⟨[.tx bytes], hout, fun _ _ => ⟨hi, hst⟩, by simp [hfree], by simp [isCompletion], by simp [isCompletion],
      by simp [hfree]⟩
  | completed front back e hi hpending hkind hrecs hout hfront hback he hcmd =>
    refine ⟨front ++ e :: back, hout, by simp [hkind], fun _ => .inr hkind, ?_, ?_, fun _ _ _ => ⟨e, by simp, he⟩⟩
    · intro x hx hc
      rw [eq_of_isCompletion hfront hback hx hc]
      exact ⟨hcmd, hpending, hkind⟩
    · simp [he, filter_isCompletion_eq_nil hfront, filter_isCompletion_eq_nil hback]
  | abandoned hi hkind hrecs hout =>
    exact ⟨[], by simp [hout], by simp [hkind], fun _ => .inr hkind, nofun, by simp, fun _ _ hne => absurd hi hne⟩

/-- With a call pending an issue returns CALL_IN_PROGRESS and changes nothing else (R94, R119). -/
theorem exec_issue_of_pending {i : Instr} {s t : State} (h : exec i s = .next t) (hi : issues i = true)
    (hpending : s.pendKind ≠ .none) : t = { s with status := some .callInProgress } := by
  cases i with
  | issueOne cmd data | issueMany cmd data =>
    rw [← Host.Outcome.next.inj h, issueCommon_eq, if_pos hpending]
  | _ => cases hi

/-- Settles O45: with the reader stopped no record or completion comes in, and an issue is refused. -/
theorem strandedCallStaysPending : Obligations.StrandedCallStaysPending := by
  unfold Obligations.StrandedCallStaysPending
  intro i s t hstopped hpending h htimeout habandon
  have hissue := fun hi => exec_issue_of_pending h hi hpending
  have hcmd : t.pendCmd = s.pendCmd := by
    cases hi : issues i with
    | true => rw [hissue hi]
    | false => exact (exec_issued_eq h hi).1
  have hnotRunning : s.reader ≠ .running := by simp [hstopped]
  cases exec_slotMove h with
  | kept evs hkind hrecs hout hevs => exact ⟨hkind, hcmd, hrecs, hissue⟩
  | recorded fs hr => exact absurd hr hnotRunning
  | filled bytes hi hfree => exact absurd hfree hpending
  | completed front back e hi => exact absurd hi (not_or.2 ⟨htimeout, hnotRunning⟩)
  | abandoned hi => exact absurd hi habandon

/-- From `s` to `t` no element of the session, the link, the reader or the call has changed (R112). -/
abbrev SameSession (s t : State) : Prop :=
  t.devState = s.devState ∧ t.errCode = s.errCode ∧ t.link = s.link ∧ t.reader = s.reader ∧
  t.pendKind = s.pendKind ∧ t.pendCmd = s.pendCmd ∧ t.pendRecs = s.pendRecs

/-- A delivered frame whose only event is a DROP was dropped, and that is all (R112). -/
theorem Delivered.sameSession_of_drop {s t : State} {r : DropReason} (h : Delivered s t)
    (hout : t.out = s.out ++ [.drop r]) : SameSession s t := by
  cases h with
  | drop r' ht => subst t; and_intros <;> rfl
  | state v ht | error e ht | errorFails e he hp ht | doneOne fs hp ht | doneMany hp ht | overflow hp hm ht
  | record fs hp hf hm ht => subst t; simp at hout

/-- A termination's last event is no DROP (R106). -/
theorem terminate_out_ne_drop (r : DropReason) (s : State) : (terminate s).out ≠ s.out ++ [.drop r] := by
  intro hout
  simpa using congrArg List.getLast? hout

/-- A TIMEOUT's first event is no DROP (R95). -/
theorem timedOut_out_ne_drop (r : DropReason) (s : State) : (timedOut s).out ≠ s.out ++ [.drop r] := by
  by_cases hk : s.pendKind = .none <;> simp [hk]

/-- Settles O25: a lone DROP is a dropped frame's or a dropped line's; every other step emits something else. -/
theorem dropsAreNonFatal : Obligations.DropsAreNonFatal := by
  unfold Obligations.DropsAreNonFatal
  intro i r s t h hout
  cases exec_next h with
  | completed b hi hr hs hl hd => exact (deliver_next hd).sameSession_of_drop hout
  | delivered f hi hn hr hd => exact (deliver_next hd).sameSession_of_drop hout
  | shortLine hi hr hs hf ht | nonProtocol b hi hr hs hl ht => subst ht; and_intros <;> rfl
  | terminated hi hr ht => subst ht; exact absurd hout (terminate_out_ne_drop r s)
  | timedOut hi ht => subst ht; exact absurd hout (timedOut_out_ne_drop r s)
  | lineEnds hi hr hs ht | ignored b hi hr hs ht | appended b hi hr hl hs ht | header b hi hr hs hb hl hm ht
  | started hi hr ht | noEffect hi ht | refused st hi hst hc ht | accepted shape cmd data hi hp hl hr ht
  | abandoned hi ht | sent cmd data hi hl ht => subst ht; simp at hout

end Sys2Proof.Machine
end
